-- ==== Sys2Proof/Word.lean ====
section
/-! DEFINITION. The widths of the machine (00_scope.md R7): a register or address, an instruction
halfword, a byte, and a general register's number. -/

namespace Sys2Proof

/-- A register, an address or a memory word: 32 bits (R7, R20). -/
abbrev Word := BitVec 32

/-- One instruction, or a 16-bit datum (R7, R200). -/
abbrev Half := BitVec 16

/-- The smallest addressable unit (R7, R103). -/
abbrev Byte := BitVec 8

/-- The number of a general register, 0 to 15 (R21). -/
abbrev Reg := BitVec 4

end Sys2Proof
end

