-- ==== Sys2Proof/Config.lean ====
section
/-! DEFINITION. What an implementation or the SoC fixes: the named parameters of 00_scope.md R8 as
plain data (`Params`, which `State.cfg` holds and no step changes), and, as constants without a
body, the values the spec leaves open: a proof about the model holds for every one of them. -/

namespace Sys2Proof

/-! ### Parameters that are a choice among named values -/

/-- `UDI_MODE` (60_exceptions.md R551): what a reserved halfword does. -/
inductive UdiMode
  | raise
  | nop
  deriving DecidableEq, Repr

/-- `UserSysWrite` (46_system.md R496): what user mode gets for SET or CLR of a system bit, for a POP
with SR in its list, and for HALT. -/
inductive UserSysWrite
  | refuse
  | ignore
  | privilegeViolation
  deriving DecidableEq, Repr

/-- `ExtOffsetRule` (30_encoding.md R212): how a LERI-extended field that is wider than four bits or
scaled is assembled. -/
inductive ExtOffsetRule
  | low4
  | full
  deriving DecidableEq, Repr

/-- `MUL_RD_RESULT` (43_arith_logic.md R384): what MUL and MULU do to the general registers. -/
inductive MulRdResult
  | unspecified
  | unchanged
  | low32
  | pair
  deriving DecidableEq, Repr

/-- `CvtRule` (43_arith_logic.md R392, R393): the result of CVB and CVS. -/
inductive CvtRule
  | zext
  | saturate
  deriving DecidableEq, Repr

/-- `TLB_CONFIG` (20_memory.md R140): the form of the TLB. -/
inductive TlbConfig
  | none
  | unified
  | separated64
  | separated128
  deriving DecidableEq, Repr

/-- `CRStep` (40_load_store.md R280, R282): the spec's default function, or another one that is
supplied, `Config.crStep`. -/
inductive CrStepRule
  | default
  | supplied
  deriving DecidableEq, Repr

/-- The instructions whose `DspFn` (45_dsp.md R441) has a default (R455 to R469, R473 to R479). -/
inductive DspOp
  | saddb
  | sadds
  | sadub
  | sadus
  | sadd
  | upkls
  | upkhs
  | upk0lb
  | upk0hb
  | upk1lb
  | upk1hb
  | upk2lb
  | upk2hb
  | upk3lb
  | upk3hb
  | avgb
  | avgs
  | ror
  | rol
  | min
  | max
  | abs
  deriving DecidableEq, Repr

/-- `BUS` (20_memory.md R173). -/
inductive BusKind
  | ahb
  | axi
  deriving DecidableEq, Repr

/-- `SR_LAYOUT` (10_state.md R25): the bit positions of the SR fields other than the mode field, which
the source fixes at bits 15 and 9; of a 4-bit field the position of its low bit. What SET and CLR write lies
in SR[15:0]; the fields that nothing of the program writes may lie anywhere. -/
structure SrLayout where
  family : BitVec 5
  version : BitVec 5
  revision : BitVec 5
  nmi : BitVec 4
  int : BitVec 4
  vi : BitVec 4
  e : BitVec 5
  endian : BitVec 5
  l : BitVec 4
  c : BitVec 4
  z : BitVec 4
  s : BitVec 4
  v : BitVec 4
  deriving DecidableEq, Repr

/-! ### The platform -/

/-- What answers at a physical address (20_memory.md R111, R113). An address in no region of the map
answers with Bus Error. -/
inductive RegionKind
  /-- RAM bytes. -/
  | ram
  /-- A device register: reads are inputs of the model, writes are outputs (R112). -/
  | device
  /-- Nothing is there and the platform answers with a drawn value instead of an error (R113). -/
  | openBus
  deriving DecidableEq, Repr

/-- One region of `PLATFORM_MAP`, both ends included. -/
structure Region where
  first : Word
  last : Word
  kind : RegionKind
  deriving DecidableEq, Repr

/-! ### Scratch-pad memory registers -/

/-- The local registers of one SPM bank (10_state.md R71, R72): control (privilege, enable), start and
end address. -/
structure SpmBank where
  privilege : BitVec 4
  enable : BitVec 4
  start : Word
  last : Word
  deriving DecidableEq, Repr

/-- The writable part of GAP 0x0700 with the exception status, and the local registers (R70 to R72). -/
structure SpmRegs where
  excStatus : BitVec 4
  iConfig : BitVec 4
  iEnable : BitVec 4
  dConfig : BitVec 4
  dEnable : BitVec 4
  iBanks : Vector SpmBank 4
  dBanks : Vector SpmBank 4
  deriving DecidableEq, Repr

/-- `RESET_SPR` (70_reset_and_hazards.md R581): what Reset leaves in the registers and flags whose reset
value the source calls "'unknown' or '0'". -/
structure ResetSpr where
  lr : Word
  er : Word
  mh : Word
  ml : Word
  mre : Word
  cr0 : Word
  cr1 : Word
  ssp : Word
  gapIndex : Word
  c : Bool
  z : Bool
  s : Bool
  v : Bool
  deriving DecidableEq, Repr

/-- The implementation parameters of 00_scope.md R8. No rule reads `icacheKb`, `dcacheKb`, `bus`,
`intcAddr` and `pmuAddr` (log 38); `ENDIAN` is `SR.endian`, which nothing writes. A function is a
parameter by being supplied or not: what is supplied has no body (log 11, log 13). -/
structure Params where
  /-- `DSP_EXT` (R2). -/
  dspExt : Bool
  tlbConfig : TlbConfig
  /-- SCPR15[18]: `true` when there is no L1 cache (10_state.md R60). -/
  cacheAbsent : Bool
  /-- `CACHE_WAYS`: 1, 2 or 4. -/
  cacheWays : Nat
  /-- `CACHE_LINE` in bytes. -/
  cacheLine : Nat
  /-- `ICACHE_SIZE` in KB. -/
  icacheKb : Nat
  /-- `DCACHE_SIZE` in KB. -/
  dcacheKb : Nat
  bus : BusKind
  /-- `INTC_ADDR`. -/
  intcAddr : Word
  /-- `PMU_ADDR`. -/
  pmuAddr : Word
  /-- `ISPM_BANK_SIZE`, the size code of GAP 0x0700[23:20] (R70). -/
  ispmBankSize : BitVec 4
  /-- `DSPM_BANK_SIZE`, the size code of GAP 0x0700[11:8]. -/
  dspmBankSize : BitVec 4
  /-- `ISPM_ENABLE`: bit n says that bank n exists. -/
  ispmPresent : BitVec 4
  /-- `DSPM_ENABLE`. -/
  dspmPresent : BitVec 4
  /-- GAP 0x07n1[11:8] and 0x07n4[11:8], External Access (R71). -/
  spmExternal : BitVec 4
  /-- What `spm_param.vh` sets at Reset (R72). -/
  spmReset : SpmRegs
  udiMode : UdiMode
  srLayout : SrLayout
  extOffsetRule : ExtOffsetRule
  mulRdResult : MulRdResult
  cvtRule : CvtRule
  userSysWrite : UserSysWrite
  /-- `FIXED_VECTORS`: the vector offsets that ignore SCPR12 (60_exceptions.md R523). -/
  fixedVectors : List Word
  /-- `IdxMap` (40_load_store.md R280). -/
  idxMap : Vector Reg 4
  /-- `CRStep` (R282). -/
  crStep : CrStepRule
  /-- The instructions whose `DspFn` is supplied in place of its default (45_dsp.md R441). -/
  dspSupplied : List DspOp
  /-- `PLATFORM_MAP`: the first region that holds an address decides. -/
  platform : List Region
  /-- `RESET_GPR` (R581). -/
  resetGpr : Vector Word 16
  resetSpr : ResetSpr
  deriving DecidableEq, Repr

/-- What an attached coprocessor holds that an instruction can reach: its status word and its register
file (44_coprocessor.md R422, R427, R429). -/
structure CoprocRegs where
  status : Half
  regs : Vector Word 16
  deriving DecidableEq, Repr, Inhabited

/-! ### What the spec leaves open

Constants without a body (93_implementation_defined.md). `State.draws` counts the draws taken. -/

/-- The `n`-th "any value" of a run. -/
opaque Config.draw : Nat → Word

/-- `CRStep` (40_load_store.md R282) as supplied: the new counter register, and the Z flag if the step
writes it. -/
opaque Config.crStep : Word → Word × Option Bool

/-- The default `CRStep` (R282) for the counter register values whose step the spec leaves open
(bit-reverse mode, an undefined mode, an increment other than 0000): the new counter, and the Z flag if
the step writes it. -/
opaque Config.openCounterStep : Word → BitVec 12 × Option Bool

/-- `DspFn.<mnemonic>` as supplied (45_dsp.md R441), of the two operands the instruction's rule names: of
ROR and ROL the second is the amount, of ABS it is 0; a byte unpack takes the low half of the result. -/
opaque Config.dspFn : DspOp → Word → Word → Word

/-- `DspFn.MACB` (45_dsp.md R450) of a, b, MRE, MH, ML: the new MRE:MH:ML. -/
opaque Config.macb : Word → Word → Word → Word → Word → BitVec 96

/-- `DspFn.MACS` (R451). -/
opaque Config.macs : Word → Word → Word → Word → Word → BitVec 96

/-- `DspFn.MSOPB` (R452): the 48-bit result MH[15:0]:ML. -/
opaque Config.msopb : Word → Word → Word → Word → Word → BitVec 48

/-- `DspFn.MSOPS` (R453): the 32-bit result ML. -/
opaque Config.msops : Word → Word → Word → Word → Word → Word

/-- `DspFn.MRS` (R470) of the field, MH, ML and the old destination. -/
opaque Config.mrs : BitVec 3 → Word → Word → Word → Word

/-- The `cpcmd` of an attached coprocessor (44_coprocessor.md R422): coprocessor number, command, what
it held, what it holds after. -/
opaque Config.cpCommand : BitVec 2 → BitVec 6 → CoprocRegs → CoprocRegs

end Sys2Proof
end

