-- ==== Sys2Proof/Syntax.lean ====
section
/-! DEFINITION. The instruction set: one constructor for each of the 140 rows of
spec/opcode_table.json (30_encoding.md R205, R206), in the table's order, with the row's fields as
operands, each at its width. Register fields hold register numbers; `src` and `src1` of the
`src/imm` instructions are the 4-bit field that a LERI turns into an immediate (R210). -/

namespace Sys2Proof

/-- One halfword of an instruction unit. -/
inductive Instr
  /-- `LD (idx, off), dst`: `0000 dddd oooo iiii` (R250). -/
  | ldIdx (dst : Reg) (off : BitVec 4) (idx : Reg)
  /-- `ST src, (idx, off)`: `0001 ssss oooo iiii` (R251). -/
  | stIdx (src : Reg) (off : BitVec 4) (idx : Reg)
  /-- `LDB (idx, off), dst`: `0010 dddd 0ooo iiii` (R252). -/
  | ldbIdx (dst : Reg) (off : BitVec 3) (idx : Reg)
  /-- `LDS (idx, off), dst`: `0010 dddd 1ooo iiii` (R253). -/
  | ldsIdx (dst : Reg) (off : BitVec 3) (idx : Reg)
  /-- `STB src, (idx, off)`: `0011 ssss 0ooo iiii` (R254). -/
  | stbIdx (src : Reg) (off : BitVec 3) (idx : Reg)
  /-- `STS src, (idx, off)`: `0011 ssss 1ooo iiii` (R255). -/
  | stsIdx (src : Reg) (off : BitVec 3) (idx : Reg)
  /-- `LERI imm`: `01mm mmmm mmmm mmmm` (R300). -/
  | leri (imm : BitVec 14)
  /-- `LDBU (idx, off), dst`: `1000 dddd 0ooo iiii` (R256). -/
  | ldbuIdx (dst : Reg) (off : BitVec 3) (idx : Reg)
  /-- `LDSU (idx, off), dst`: `1000 dddd 1ooo iiii` (R257). -/
  | ldsuIdx (dst : Reg) (off : BitVec 3) (idx : Reg)
  /-- `LD (SP, off), dst`: `1001 dddd 0ooo oooo` (R258). -/
  | ldSp (dst : Reg) (off : BitVec 7)
  /-- `ST src, (SP, off)`: `1001 ssss 1ooo oooo` (R259). -/
  | stSp (src : Reg) (off : BitVec 7)
  /-- `LDI imm, dst`: `1010 dddd mmmm mmmm` (R301). -/
  | ldi (dst : Reg) (imm : BitVec 8)
  /-- `PUSH list (R7..R0)`: `1011 0000 llll llll` (R288). -/
  | pushLo (list : BitVec 8)
  /-- `PUSH list (R15..R8)`: `1011 0010 llll llll` (R288). -/
  | pushHi (list : BitVec 8)
  /-- `PUSH list (SR,PC,LR,ER,MH,ML,CR1,CR0)`: `1011 0100 llll llll` (R288). -/
  | pushSpec (list : BitVec 8)
  /-- `POP list (R7..R0)`: `1011 0001 llll llll` (R290). -/
  | popLo (list : BitVec 8)
  /-- `POP list (R15..R8)`: `1011 0011 llll llll` (R290). -/
  | popHi (list : BitVec 8)
  /-- `POP list (SR,PC,LR,ER,MH,ML,CR1,CR0)`: `1011 0101 llll llll` (R290). -/
  | popSpec (list : BitVec 8)
  /-- `LEA (SP, imm), SP`: `1011 0110 oooo oooo` (R302). -/
  | leaAspo (off : BitVec 8)
  /-- `MRS imm, dst`: `1011 0111 0mmm dddd` (R470). -/
  | mrs (imm : BitVec 3) (dst : Reg)
  /-- `Reserved`: `1011 0111 1xxx xxxx` (R206). -/
  | reservedB780 (bits : BitVec 7)
  /-- `ADD src/imm, dst`: `1011 1000 dddd ssss` (R361). -/
  | add (dst : Reg) (src : Reg)
  /-- `ADC src/imm, dst`: `1011 1001 dddd ssss` (R362). -/
  | adc (dst : Reg) (src : Reg)
  /-- `SUB src/imm, dst`: `1011 1010 dddd ssss` (R363). -/
  | sub (dst : Reg) (src : Reg)
  /-- `SBC src/imm, dst`: `1011 1011 dddd ssss` (R364). -/
  | sbc (dst : Reg) (src : Reg)
  /-- `AND src/imm, dst`: `1011 1100 dddd ssss` (R365). -/
  | and (dst : Reg) (src : Reg)
  /-- `OR src/imm, dst`: `1011 1101 dddd ssss` (R366). -/
  | or (dst : Reg) (src : Reg)
  /-- `XOR src/imm, dst`: `1011 1110 dddd ssss` (R367). -/
  | xor (dst : Reg) (src : Reg)
  /-- `CMP src/imm, dst`: `1011 1111 dddd ssss` (R368). -/
  | cmp (dst : Reg) (src : Reg)
  /-- `ASR sftamt, dst`: `1100 dddd 0aaa aa00` (R371). -/
  | asrImm (dst : Reg) (sftamt : BitVec 5)
  /-- `LSR sftamt, dst`: `1100 dddd 0aaa aa01` (R372). -/
  | lsrImm (dst : Reg) (sftamt : BitVec 5)
  /-- `ASL sftamt, dst`: `1100 dddd 0aaa aa10` (R373). -/
  | aslImm (dst : Reg) (sftamt : BitVec 5)
  /-- `SSL sftamt, dst`: `1100 dddd 0aaa aa11` (R374). -/
  | sslImm (dst : Reg) (sftamt : BitVec 5)
  /-- `ASR sftreg, dst`: `1100 dddd 10rr rr00` (R371). -/
  | asrReg (dst : Reg) (sftreg : Reg)
  /-- `LSR sftreg, dst`: `1100 dddd 10rr rr01` (R372). -/
  | lsrReg (dst : Reg) (sftreg : Reg)
  /-- `ASL sftreg, dst`: `1100 dddd 10rr rr10` (R373). -/
  | aslReg (dst : Reg) (sftreg : Reg)
  /-- `SSL sftreg, dst`: `1100 dddd 10rr rr11` (R374). -/
  | sslReg (dst : Reg) (sftreg : Reg)
  /-- `ADDQ imm, dst`: `1100 dddd 110m mmmm` (R369). -/
  | addq (dst : Reg) (imm : BitVec 5)
  /-- `CMPQ imm, src`: `1100 ssss 111m mmmm` (R370). -/
  | cmpq (src : Reg) (imm : BitVec 5)
  /-- `JNV label`: `1101 0000 oooo oooo` (R332). -/
  | jnv (off : BitVec 8)
  /-- `JV label`: `1101 0001 oooo oooo` (R333). -/
  | jv (off : BitVec 8)
  /-- `JP label`: `1101 0010 oooo oooo` (R334). -/
  | jp (off : BitVec 8)
  /-- `JM label`: `1101 0011 oooo oooo` (R335). -/
  | jm (off : BitVec 8)
  /-- `JNZ label`: `1101 0100 oooo oooo` (R336). -/
  | jnz (off : BitVec 8)
  /-- `JZ label`: `1101 0101 oooo oooo` (R337). -/
  | jz (off : BitVec 8)
  /-- `JNC label`: `1101 0110 oooo oooo` (R338). -/
  | jnc (off : BitVec 8)
  /-- `JC label`: `1101 0111 oooo oooo` (R339). -/
  | jc (off : BitVec 8)
  /-- `JGT label`: `1101 1000 oooo oooo` (R340). -/
  | jgt (off : BitVec 8)
  /-- `JLT label`: `1101 1001 oooo oooo` (R341). -/
  | jlt (off : BitVec 8)
  /-- `JGE label`: `1101 1010 oooo oooo` (R342). -/
  | jge (off : BitVec 8)
  /-- `JLE label`: `1101 1011 oooo oooo` (R343). -/
  | jle (off : BitVec 8)
  /-- `JHI label`: `1101 1100 oooo oooo` (R344). -/
  | jhi (off : BitVec 8)
  /-- `JLS label`: `1101 1101 oooo oooo` (R345). -/
  | jls (off : BitVec 8)
  /-- `JMP label`: `1101 1110 oooo oooo` (R346). -/
  | jmp (off : BitVec 8)
  /-- `JAL label`: `1101 1111 oooo oooo` (R347). -/
  | jal (off : BitVec 8)
  /-- `EXTB dst`: `1110 0000 0000 dddd` (R390). -/
  | extb (dst : Reg)
  /-- `EXTS dst`: `1110 0000 0001 dddd` (R391). -/
  | exts (dst : Reg)
  /-- `MFMRE dst`: `1110 0000 0010 dddd` (R472). -/
  | mfmre (dst : Reg)
  /-- `MTMRE src`: `1110 0000 0011 ssss` (R471). -/
  | mtmre (src : Reg)
  /-- `CVB dst`: `1110 0000 0100 dddd` (R392). -/
  | cvb (dst : Reg)
  /-- `CVS dst`: `1110 0000 0101 dddd` (R393). -/
  | cvs (dst : Reg)
  /-- `NEG dst`: `1110 0000 0110 dddd` (R394). -/
  | neg (dst : Reg)
  /-- `NOT dst`: `1110 0000 0111 dddd` (R395). -/
  | not (dst : Reg)
  /-- `JR src`: `1110 0000 1000 ssss` (R348). -/
  | jr (src : Reg)
  /-- `JALR src`: `1110 0000 1001 ssss` (R349). -/
  | jalr (src : Reg)
  /-- `JPLR`: `1110 0000 1010 xxxx` (R350). -/
  | jplr (blank : BitVec 4)
  /-- `NOP`: `1110 0000 1011 xxxx` (R491). -/
  | nop (n : BitVec 4)
  /-- `SWI exception_no`: `1110 0000 1100 mmmm` (R492). -/
  | swi (n : BitVec 4)
  /-- `STEP`: `1110 0000 1101 xxxx` (R493). -/
  | step (blank : BitVec 4)
  /-- `HALT halt_level`: `1110 0000 1110 mmmm` (R495). -/
  | halt (n : BitVec 4)
  /-- `BRKPT`: `1110 0000 1111 xxxx` (R494). -/
  | brkpt (blank : BitVec 4)
  /-- `CNT0 src`: `1110 0001 0000 ssss` (R396). -/
  | cnt0 (src : Reg)
  /-- `CNT1 src`: `1110 0001 0001 ssss` (R397). -/
  | cnt1 (src : Reg)
  /-- `SET position`: `1110 0001 0010 mmmm` (R497). -/
  | set (pos : BitVec 4)
  /-- `CLR position`: `1110 0001 0011 mmmm` (R498). -/
  | clr (pos : BitVec 4)
  /-- `MTML src`: `1110 0001 0100 ssss` (R310). -/
  | mtml (src : Reg)
  /-- `MTMH src`: `1110 0001 0101 ssss` (R311). -/
  | mtmh (src : Reg)
  /-- `MFML dst`: `1110 0001 0110 dddd` (R312). -/
  | mfml (dst : Reg)
  /-- `MFMH dst`: `1110 0001 0111 dddd` (R313). -/
  | mfmh (dst : Reg)
  /-- `MTCR0 src`: `1110 0001 1000 ssss` (R314). -/
  | mtcr0 (src : Reg)
  /-- `MTCR1 src`: `1110 0001 1001 ssss` (R315). -/
  | mtcr1 (src : Reg)
  /-- `SYNC`: `1110 0001 1010 xxxx` (R499). -/
  | sync (blank : BitVec 4)
  /-- `Reserved`: `1110 0001 1011 xxxx` (R206). -/
  | reservedE1B0 (bits : BitVec 4)
  /-- `LSEA (idx, imm), SP`: `1110 0001 1100 iiii` (R304). -/
  | lsea (idx : Reg)
  /-- `LESA (SP, imm), dst`: `1110 0001 1101 dddd` (R305). -/
  | lesa (dst : Reg)
  /-- `MFCR0 dst`: `1110 0001 1110 dddd` (R316). -/
  | mfcr0 (dst : Reg)
  /-- `MFCR1 dst`: `1110 0001 1111 dddd` (R317). -/
  | mfcr1 (dst : Reg)
  /-- `AVGB src/imm, dst`: `1110 0010 ddd0 ssss` (R473). -/
  | avgb (dst : BitVec 3) (src : Reg)
  /-- `AVGS src/imm, dst`: `1110 0010 ddd1 ssss` (R474). -/
  | avgs (dst : BitVec 3) (src : Reg)
  /-- `TST src1, src2`: `1110 0011 tttt ssss` (R375). -/
  | tst (src2 : Reg) (src1 : Reg)
  /-- `LEA (idx, imm), dst`: `1110 0100 dddd iiii` (R303). -/
  | lea (dst : Reg) (idx : Reg)
  /-- `ROR imm, dst`: `1110 0101 0mmm dddd` (R475). -/
  | ror (imm : BitVec 3) (dst : Reg)
  /-- `ROL imm, dst`: `1110 0101 1mmm dddd` (R476). -/
  | rol (imm : BitVec 3) (dst : Reg)
  /-- `MUL src/imm, dst`: `1110 0110 ddd0 ssss` (R380). -/
  | mul (dst : BitVec 3) (src : Reg)
  /-- `MULU src/imm, dst`: `1110 0110 ddd1 ssss` (R381). -/
  | mulu (dst : BitVec 3) (src : Reg)
  /-- `MAC src1, src2`: `1110 0111 tttt ssss` (R382). -/
  | mac (src2 : Reg) (src1 : Reg)
  /-- `LDB (SP, imm), dst`: `1110 1000 0ooo dddd` (R260). -/
  | ldbSp (off : BitVec 3) (dst : Reg)
  /-- `LDS (SP, imm), dst`: `1110 1000 1ooo dddd` (R261). -/
  | ldsSp (off : BitVec 3) (dst : Reg)
  /-- `LDBU (SP, imm), dst`: `1110 1001 0ooo dddd` (R262). -/
  | ldbuSp (off : BitVec 3) (dst : Reg)
  /-- `LDSU (SP, imm), dst`: `1110 1001 1ooo dddd` (R263). -/
  | ldsuSp (off : BitVec 3) (dst : Reg)
  /-- `STB src, (SP, imm)`: `1110 1010 0ooo ssss` (R264). -/
  | stbSp (off : BitVec 3) (src : Reg)
  /-- `STS src, (SP, imm)`: `1110 1010 1ooo ssss` (R265). -/
  | stsSp (off : BitVec 3) (src : Reg)
  /-- `LDAU CRNO, idx, dst`: `1110 1011 0iic dddd` (R280). -/
  | ldau (idx : BitVec 2) (cr : BitVec 1) (dst : Reg)
  /-- `STAU CRNO, src, idx`: `1110 1011 1iic ssss` (R281). -/
  | stau (idx : BitVec 2) (cr : BitVec 1) (src : Reg)
  /-- `CPCMD CPNO, cpcmd`: `1110 11pp 00mm mmmm` (R423). -/
  | cpcmd (cpno : BitVec 2) (cmd : BitVec 6)
  /-- `GETC CPNO, bit_position`: `1110 11pp 0100 mmmm` (R427). -/
  | getc (cpno : BitVec 2) (pos : BitVec 4)
  /-- `EXEC CPNO, bit_position`: `1110 11pp 0101 mmmm` (R428). -/
  | execCp (cpno : BitVec 2) (pos : BitVec 4)
  /-- `MVTC CPNO, cpdst`: `1110 11pp 0110 rrrr` (R425). -/
  | mvtc (cpno : BitVec 2) (reg : BitVec 4)
  /-- `MVFC CPNO, cpsrc`: `1110 11pp 0111 rrrr` (R426). -/
  | mvfc (cpno : BitVec 2) (reg : BitVec 4)
  /-- `LDC CPNO, (SP, imm), cpdst`: `1110 11pp 1000 rrrr` (R429). -/
  | ldcSp (cpno : BitVec 2) (reg : BitVec 4)
  /-- `LDC CPNO, (idx, imm), cpdst`: `1110 11pp 1001 rrrr` (R429). -/
  | ldcIdx (cpno : BitVec 2) (reg : BitVec 4)
  /-- `STC CPNO, cpsrc, (SP, imm)`: `1110 11pp 1010 rrrr` (R430). -/
  | stcSp (cpno : BitVec 2) (reg : BitVec 4)
  /-- `STC CPNO, cpsrc, (idx, imm)`: `1110 11pp 1011 rrrr` (R430). -/
  | stcIdx (cpno : BitVec 2) (reg : BitVec 4)
  /-- `Reserved`: `1110 11pp 11xx xxxx` (R206). -/
  | reservedECC0 (cpno : BitVec 2) (bits : BitVec 6)
  /-- `MACB src1/imm, src2`: `1111 0000 tttt ssss` (R450). -/
  | macb (src2 : Reg) (src1 : Reg)
  /-- `MACS src1/imm, src2`: `1111 0001 tttt ssss` (R451). -/
  | macs (src2 : Reg) (src1 : Reg)
  /-- `MSOPB src1/imm, src2`: `1111 0010 tttt ssss` (R452). -/
  | msopb (src2 : Reg) (src1 : Reg)
  /-- `MSOPS src1/imm, src2`: `1111 0011 tttt ssss` (R453). -/
  | msops (src2 : Reg) (src1 : Reg)
  /-- `SADDB src/imm, dst`: `1111 0100 dddd ssss` (R455). -/
  | saddb (dst : Reg) (src : Reg)
  /-- `SADDS src/imm, dst`: `1111 0101 dddd ssss` (R456). -/
  | sadds (dst : Reg) (src : Reg)
  /-- `SADUB src/imm, dst`: `1111 0110 dddd ssss` (R457). -/
  | sadub (dst : Reg) (src : Reg)
  /-- `SADUS src/imm, dst`: `1111 0111 dddd ssss` (R458). -/
  | sadus (dst : Reg) (src : Reg)
  /-- `SADD src/imm, dst`: `1111 1000 dddd ssss` (R459). -/
  | sadd (dst : Reg) (src : Reg)
  /-- `UPKLS src_grp, dst`: `1111 1001 ggg0 dddd` (R460). -/
  | upkls (grp : BitVec 3) (dst : Reg)
  /-- `UPKHS src_grp, dst`: `1111 1001 ggg1 dddd` (R461). -/
  | upkhs (grp : BitVec 3) (dst : Reg)
  /-- `MIN src/imm, dst`: `1111 1010 ddd0 ssss` (R477). -/
  | min (dst : BitVec 3) (src : Reg)
  /-- `MAX src/imm, dst`: `1111 1010 ddd1 ssss` (R478). -/
  | max (dst : BitVec 3) (src : Reg)
  /-- `ABS dst`: `1111 1011 0000 dddd` (R479). -/
  | abs (dst : Reg)
  /-- `Reserved`: `1111 1011 1xxx xxxx` (R206). -/
  | reservedFB80 (bits : BitVec 7)
  /-- `Reserved`: `1111 1011 01xx xxxx` (R206). -/
  | reservedFB40 (bits : BitVec 6)
  /-- `Reserved`: `1111 1011 001x xxxx` (R206). -/
  | reservedFB20 (bits : BitVec 5)
  /-- `Reserved`: `1111 1011 0001 xxxx` (R206). -/
  | reservedFB10 (bits : BitVec 4)
  /-- `UPK0LB src_grp, dst`: `1111 1100 ggg0 dddd` (R462). -/
  | upk0lb (grp : BitVec 3) (dst : Reg)
  /-- `UPK0HB src_grp, dst`: `1111 1100 ggg1 dddd` (R463). -/
  | upk0hb (grp : BitVec 3) (dst : Reg)
  /-- `UPK1LB src_grp, dst`: `1111 1101 ggg0 dddd` (R464). -/
  | upk1lb (grp : BitVec 3) (dst : Reg)
  /-- `UPK1HB src_grp, dst`: `1111 1101 ggg1 dddd` (R465). -/
  | upk1hb (grp : BitVec 3) (dst : Reg)
  /-- `UPK2LB src_grp, dst`: `1111 1110 ggg0 dddd` (R466). -/
  | upk2lb (grp : BitVec 3) (dst : Reg)
  /-- `UPK2HB src_grp, dst`: `1111 1110 ggg1 dddd` (R467). -/
  | upk2hb (grp : BitVec 3) (dst : Reg)
  /-- `UPK3LB src_grp, dst`: `1111 1111 ggg0 dddd` (R468). -/
  | upk3lb (grp : BitVec 3) (dst : Reg)
  /-- `UPK3HB src_grp, dst`: `1111 1111 ggg1 dddd` (R469). -/
  | upk3hb (grp : BitVec 3) (dst : Reg)
  deriving DecidableEq, Repr

end Sys2Proof
end

