-- ==== Sys2Proof/WellFormed.lean ====
section
/-! DEFINITION. Which instructions are canonical. Every field of `Instr` has the width its encoding
gives it, so the restrictions of 30_encoding.md R216 cannot be broken. What remains is R215: the blank
nibble of JPLR, STEP, BRKPT and SYNC is 0. (NOP's nibble is an operand, 46_system.md R491.) -/

namespace Sys2Proof

/-- R215: a blank nibble holds 0. -/
def Instr.wellFormed : Instr → Bool
  | .jplr blank => blank == 0
  | .step blank => blank == 0
  | .brkpt blank => blank == 0
  | .sync blank => blank == 0
  | _ => true

end Sys2Proof
end

