-- ==== Sys2Proof/Decode.lean ====
section
/-! DEFINITION. The decoder and the encoder of one halfword (30_encoding.md R205 to R207). The decoder
is a function of the halfword alone: it depends neither on SR.E nor on the mode (R207). The 140 rows
partition the 65536 halfwords, so no halfword is rejected: a reserved one is read as its reserved row
(R206). What is rejected, by name, is a byte string too short to hold an instruction. -/

namespace Sys2Proof

/-- The field of `n` bits whose lowest bit is bit `lo` of the halfword. -/
def field (w : Half) (lo n : Nat) : BitVec n := w.extractLsb' lo n

/-- Bits 15:12 = 1011: PUSH, POP, LEA(ASPO), MRS and the two-operand instructions. -/
def decodeB (w : Half) : Instr :=
  match (field w 8 4).toNat with
  | 0 => .pushLo (field w 0 8)
  | 1 => .popLo (field w 0 8)
  | 2 => .pushHi (field w 0 8)
  | 3 => .popHi (field w 0 8)
  | 4 => .pushSpec (field w 0 8)
  | 5 => .popSpec (field w 0 8)
  | 6 => .leaAspo (field w 0 8)
  | 7 => if field w 7 1 = 0 then .mrs (field w 4 3) (field w 0 4) else .reservedB780 (field w 0 7)
  | 8 => .add (field w 4 4) (field w 0 4)
  | 9 => .adc (field w 4 4) (field w 0 4)
  | 10 => .sub (field w 4 4) (field w 0 4)
  | 11 => .sbc (field w 4 4) (field w 0 4)
  | 12 => .and (field w 4 4) (field w 0 4)
  | 13 => .or (field w 4 4) (field w 0 4)
  | 14 => .xor (field w 4 4) (field w 0 4)
  | _ => .cmp (field w 4 4) (field w 0 4)

/-- Bits 15:12 = 1100: the shifts, ADDQ and CMPQ. -/
def decodeC (w : Half) : Instr :=
  if field w 7 1 = 0 then
    match (field w 0 2).toNat with
    | 0 => .asrImm (field w 8 4) (field w 2 5)
    | 1 => .lsrImm (field w 8 4) (field w 2 5)
    | 2 => .aslImm (field w 8 4) (field w 2 5)
    | _ => .sslImm (field w 8 4) (field w 2 5)
  else if field w 6 1 = 0 then
    match (field w 0 2).toNat with
    | 0 => .asrReg (field w 8 4) (field w 2 4)
    | 1 => .lsrReg (field w 8 4) (field w 2 4)
    | 2 => .aslReg (field w 8 4) (field w 2 4)
    | _ => .sslReg (field w 8 4) (field w 2 4)
  else if field w 5 1 = 0 then .addq (field w 8 4) (field w 0 5)
  else .cmpq (field w 8 4) (field w 0 5)

/-- Bits 15:12 = 1101: the branches, by condition. -/
def decodeD (w : Half) : Instr :=
  match (field w 8 4).toNat with
  | 0 => .jnv (field w 0 8)
  | 1 => .jv (field w 0 8)
  | 2 => .jp (field w 0 8)
  | 3 => .jm (field w 0 8)
  | 4 => .jnz (field w 0 8)
  | 5 => .jz (field w 0 8)
  | 6 => .jnc (field w 0 8)
  | 7 => .jc (field w 0 8)
  | 8 => .jgt (field w 0 8)
  | 9 => .jlt (field w 0 8)
  | 10 => .jge (field w 0 8)
  | 11 => .jle (field w 0 8)
  | 12 => .jhi (field w 0 8)
  | 13 => .jls (field w 0 8)
  | 14 => .jmp (field w 0 8)
  | _ => .jal (field w 0 8)

/-- Bits 15:8 = 1110 0000. -/
def decodeE0 (w : Half) : Instr :=
  match (field w 4 4).toNat with
  | 0 => .extb (field w 0 4)
  | 1 => .exts (field w 0 4)
  | 2 => .mfmre (field w 0 4)
  | 3 => .mtmre (field w 0 4)
  | 4 => .cvb (field w 0 4)
  | 5 => .cvs (field w 0 4)
  | 6 => .neg (field w 0 4)
  | 7 => .not (field w 0 4)
  | 8 => .jr (field w 0 4)
  | 9 => .jalr (field w 0 4)
  | 10 => .jplr (field w 0 4)
  | 11 => .nop (field w 0 4)
  | 12 => .swi (field w 0 4)
  | 13 => .step (field w 0 4)
  | 14 => .halt (field w 0 4)
  | _ => .brkpt (field w 0 4)

/-- Bits 15:8 = 1110 0001. -/
def decodeE1 (w : Half) : Instr :=
  match (field w 4 4).toNat with
  | 0 => .cnt0 (field w 0 4)
  | 1 => .cnt1 (field w 0 4)
  | 2 => .set (field w 0 4)
  | 3 => .clr (field w 0 4)
  | 4 => .mtml (field w 0 4)
  | 5 => .mtmh (field w 0 4)
  | 6 => .mfml (field w 0 4)
  | 7 => .mfmh (field w 0 4)
  | 8 => .mtcr0 (field w 0 4)
  | 9 => .mtcr1 (field w 0 4)
  | 10 => .sync (field w 0 4)
  | 11 => .reservedE1B0 (field w 0 4)
  | 12 => .lsea (field w 0 4)
  | 13 => .lesa (field w 0 4)
  | 14 => .mfcr0 (field w 0 4)
  | _ => .mfcr1 (field w 0 4)

/-- Bits 15:10 = 1110 11: the coprocessor instructions; bits 9:8 are the coprocessor number. -/
def decodeCoproc (w : Half) : Instr :=
  match (field w 4 4).toNat with
  | 0 | 1 | 2 | 3 => .cpcmd (field w 8 2) (field w 0 6)
  | 4 => .getc (field w 8 2) (field w 0 4)
  | 5 => .execCp (field w 8 2) (field w 0 4)
  | 6 => .mvtc (field w 8 2) (field w 0 4)
  | 7 => .mvfc (field w 8 2) (field w 0 4)
  | 8 => .ldcSp (field w 8 2) (field w 0 4)
  | 9 => .ldcIdx (field w 8 2) (field w 0 4)
  | 10 => .stcSp (field w 8 2) (field w 0 4)
  | 11 => .stcIdx (field w 8 2) (field w 0 4)
  | _ => .reservedECC0 (field w 8 2) (field w 0 6)

/-- Bits 15:12 = 1110. -/
def decodeE (w : Half) : Instr :=
  match (field w 8 4).toNat with
  | 0 => decodeE0 w
  | 1 => decodeE1 w
  | 2 => if field w 4 1 = 0 then .avgb (field w 5 3) (field w 0 4) else .avgs (field w 5 3) (field w 0 4)
  | 3 => .tst (field w 4 4) (field w 0 4)
  | 4 => .lea (field w 4 4) (field w 0 4)
  | 5 => if field w 7 1 = 0 then .ror (field w 4 3) (field w 0 4) else .rol (field w 4 3) (field w 0 4)
  | 6 => if field w 4 1 = 0 then .mul (field w 5 3) (field w 0 4) else .mulu (field w 5 3) (field w 0 4)
  | 7 => .mac (field w 4 4) (field w 0 4)
  | 8 => if field w 7 1 = 0 then .ldbSp (field w 4 3) (field w 0 4) else .ldsSp (field w 4 3) (field w 0 4)
  | 9 => if field w 7 1 = 0 then .ldbuSp (field w 4 3) (field w 0 4) else .ldsuSp (field w 4 3) (field w 0 4)
  | 10 => if field w 7 1 = 0 then .stbSp (field w 4 3) (field w 0 4) else .stsSp (field w 4 3) (field w 0 4)
  | 11 =>
    if field w 7 1 = 0 then .ldau (field w 5 2) (field w 4 1) (field w 0 4)
    else .stau (field w 5 2) (field w 4 1) (field w 0 4)
  | _ => decodeCoproc w

/-- Bits 15:8 = 1111 1011: ABS when bits 7:4 are 0, otherwise one of the four rows that cover
"Reserved other than ABS" (R207). -/
def decodeFB (w : Half) : Instr :=
  if field w 7 1 = 1 then .reservedFB80 (field w 0 7)
  else if field w 6 1 = 1 then .reservedFB40 (field w 0 6)
  else if field w 5 1 = 1 then .reservedFB20 (field w 0 5)
  else if field w 4 1 = 1 then .reservedFB10 (field w 0 4)
  else .abs (field w 0 4)

/-- Bits 15:12 = 1111: the DSP instructions. -/
def decodeF (w : Half) : Instr :=
  match (field w 8 4).toNat with
  | 0 => .macb (field w 4 4) (field w 0 4)
  | 1 => .macs (field w 4 4) (field w 0 4)
  | 2 => .msopb (field w 4 4) (field w 0 4)
  | 3 => .msops (field w 4 4) (field w 0 4)
  | 4 => .saddb (field w 4 4) (field w 0 4)
  | 5 => .sadds (field w 4 4) (field w 0 4)
  | 6 => .sadub (field w 4 4) (field w 0 4)
  | 7 => .sadus (field w 4 4) (field w 0 4)
  | 8 => .sadd (field w 4 4) (field w 0 4)
  | 9 => if field w 4 1 = 0 then .upkls (field w 5 3) (field w 0 4) else .upkhs (field w 5 3) (field w 0 4)
  | 10 => if field w 4 1 = 0 then .min (field w 5 3) (field w 0 4) else .max (field w 5 3) (field w 0 4)
  | 11 => decodeFB w
  | 12 => if field w 4 1 = 0 then .upk0lb (field w 5 3) (field w 0 4) else .upk0hb (field w 5 3) (field w 0 4)
  | 13 => if field w 4 1 = 0 then .upk1lb (field w 5 3) (field w 0 4) else .upk1hb (field w 5 3) (field w 0 4)
  | 14 => if field w 4 1 = 0 then .upk2lb (field w 5 3) (field w 0 4) else .upk2hb (field w 5 3) (field w 0 4)
  | _ => if field w 4 1 = 0 then .upk3lb (field w 5 3) (field w 0 4) else .upk3hb (field w 5 3) (field w 0 4)

/-- The instruction a halfword stands for (R205, R207), by bits 15:12. -/
def decode (w : Half) : Instr :=
  match (field w 12 4).toNat with
  | 0 => .ldIdx (field w 8 4) (field w 4 4) (field w 0 4)
  | 1 => .stIdx (field w 8 4) (field w 4 4) (field w 0 4)
  | 2 =>
    if field w 7 1 = 0 then .ldbIdx (field w 8 4) (field w 4 3) (field w 0 4)
    else .ldsIdx (field w 8 4) (field w 4 3) (field w 0 4)
  | 3 =>
    if field w 7 1 = 0 then .stbIdx (field w 8 4) (field w 4 3) (field w 0 4)
    else .stsIdx (field w 8 4) (field w 4 3) (field w 0 4)
  | 4 | 5 | 6 | 7 => .leri (field w 0 14)
  | 8 =>
    if field w 7 1 = 0 then .ldbuIdx (field w 8 4) (field w 4 3) (field w 0 4)
    else .ldsuIdx (field w 8 4) (field w 4 3) (field w 0 4)
  | 9 => if field w 7 1 = 0 then .ldSp (field w 8 4) (field w 0 7) else .stSp (field w 8 4) (field w 0 7)
  | 10 => .ldi (field w 8 4) (field w 0 8)
  | 11 => decodeB w
  | 12 => decodeC w
  | 13 => decodeD w
  | 14 => decodeE w
  | _ => decodeF w

/-- A halfword as the hardware stores it, lowest address first: low byte first in little-endian order,
high byte first in big-endian order (20_memory.md R100, R101). -/
def halfToBytes (bigEndian : Bool) (w : Half) : List Byte :=
  if bigEndian then [w.extractLsb' 8 8, w.extractLsb' 0 8] else [w.extractLsb' 0 8, w.extractLsb' 8 8]

/-- The halfword two bytes hold, `b0` at the lower address. -/
def halfOfBytes (bigEndian : Bool) (b0 b1 : Byte) : Half := if bigEndian then b0 ++ b1 else b1 ++ b0

/-- Why a byte string holds no instruction. -/
inductive DecodeError
  /-- Fewer than two bytes: every instruction is exactly 16 bits (R200). -/
  | truncated
  deriving DecidableEq, Repr

/-- The first instruction of a byte string, and the bytes after it. -/
def decodeBytes (bigEndian : Bool) : List Byte → Except DecodeError (Instr × List Byte)
  | b0 :: b1 :: rest => .ok (decode (halfOfBytes bigEndian b0 b1), rest)
  | _ => .error .truncated

/-- The instruction the decoder reads from the bits `w` of a table row of `nbits` bits, laid out as the
hardware of the reset configuration (little-endian) stores it. Bits above `nbits` are 0. -/
def decodeTableWord (nbits w : Nat) : Option Instr :=
  match decodeBytes false (halfToBytes false (BitVec.ofNat 16 (w % 2 ^ nbits))) with
  | .ok (i, _) => some i
  | .error _ => none

/-- The halfword of an instruction, from the same table: fixed bits and fields, bit 15 first. -/
def encode : Instr → Half
  | .ldIdx dst off idx => 0b0000#4 ++ dst ++ off ++ idx
  | .stIdx src off idx => 0b0001#4 ++ src ++ off ++ idx
  | .ldbIdx dst off idx => 0b0010#4 ++ dst ++ 0b0#1 ++ off ++ idx
  | .ldsIdx dst off idx => 0b0010#4 ++ dst ++ 0b1#1 ++ off ++ idx
  | .stbIdx src off idx => 0b0011#4 ++ src ++ 0b0#1 ++ off ++ idx
  | .stsIdx src off idx => 0b0011#4 ++ src ++ 0b1#1 ++ off ++ idx
  | .leri imm => 0b01#2 ++ imm
  | .ldbuIdx dst off idx => 0b1000#4 ++ dst ++ 0b0#1 ++ off ++ idx
  | .ldsuIdx dst off idx => 0b1000#4 ++ dst ++ 0b1#1 ++ off ++ idx
  | .ldSp dst off => 0b1001#4 ++ dst ++ 0b0#1 ++ off
  | .stSp src off => 0b1001#4 ++ src ++ 0b1#1 ++ off
  | .ldi dst imm => 0b1010#4 ++ dst ++ imm
  | .pushLo list => 0b10110000#8 ++ list
  | .pushHi list => 0b10110010#8 ++ list
  | .pushSpec list => 0b10110100#8 ++ list
  | .popLo list => 0b10110001#8 ++ list
  | .popHi list => 0b10110011#8 ++ list
  | .popSpec list => 0b10110101#8 ++ list
  | .leaAspo off => 0b10110110#8 ++ off
  | .mrs imm dst => 0b101101110#9 ++ imm ++ dst
  | .reservedB780 bits => 0b101101111#9 ++ bits
  | .add dst src => 0b10111000#8 ++ dst ++ src
  | .adc dst src => 0b10111001#8 ++ dst ++ src
  | .sub dst src => 0b10111010#8 ++ dst ++ src
  | .sbc dst src => 0b10111011#8 ++ dst ++ src
  | .and dst src => 0b10111100#8 ++ dst ++ src
  | .or dst src => 0b10111101#8 ++ dst ++ src
  | .xor dst src => 0b10111110#8 ++ dst ++ src
  | .cmp dst src => 0b10111111#8 ++ dst ++ src
  | .asrImm dst sftamt => 0b1100#4 ++ dst ++ 0b0#1 ++ sftamt ++ 0b00#2
  | .lsrImm dst sftamt => 0b1100#4 ++ dst ++ 0b0#1 ++ sftamt ++ 0b01#2
  | .aslImm dst sftamt => 0b1100#4 ++ dst ++ 0b0#1 ++ sftamt ++ 0b10#2
  | .sslImm dst sftamt => 0b1100#4 ++ dst ++ 0b0#1 ++ sftamt ++ 0b11#2
  | .asrReg dst sftreg => 0b1100#4 ++ dst ++ 0b10#2 ++ sftreg ++ 0b00#2
  | .lsrReg dst sftreg => 0b1100#4 ++ dst ++ 0b10#2 ++ sftreg ++ 0b01#2
  | .aslReg dst sftreg => 0b1100#4 ++ dst ++ 0b10#2 ++ sftreg ++ 0b10#2
  | .sslReg dst sftreg => 0b1100#4 ++ dst ++ 0b10#2 ++ sftreg ++ 0b11#2
  | .addq dst imm => 0b1100#4 ++ dst ++ 0b110#3 ++ imm
  | .cmpq src imm => 0b1100#4 ++ src ++ 0b111#3 ++ imm
  | .jnv off => 0b11010000#8 ++ off
  | .jv off => 0b11010001#8 ++ off
  | .jp off => 0b11010010#8 ++ off
  | .jm off => 0b11010011#8 ++ off
  | .jnz off => 0b11010100#8 ++ off
  | .jz off => 0b11010101#8 ++ off
  | .jnc off => 0b11010110#8 ++ off
  | .jc off => 0b11010111#8 ++ off
  | .jgt off => 0b11011000#8 ++ off
  | .jlt off => 0b11011001#8 ++ off
  | .jge off => 0b11011010#8 ++ off
  | .jle off => 0b11011011#8 ++ off
  | .jhi off => 0b11011100#8 ++ off
  | .jls off => 0b11011101#8 ++ off
  | .jmp off => 0b11011110#8 ++ off
  | .jal off => 0b11011111#8 ++ off
  | .extb dst => 0b111000000000#12 ++ dst
  | .exts dst => 0b111000000001#12 ++ dst
  | .mfmre dst => 0b111000000010#12 ++ dst
  | .mtmre src => 0b111000000011#12 ++ src
  | .cvb dst => 0b111000000100#12 ++ dst
  | .cvs dst => 0b111000000101#12 ++ dst
  | .neg dst => 0b111000000110#12 ++ dst
  | .not dst => 0b111000000111#12 ++ dst
  | .jr src => 0b111000001000#12 ++ src
  | .jalr src => 0b111000001001#12 ++ src
  | .jplr blank => 0b111000001010#12 ++ blank
  | .nop n => 0b111000001011#12 ++ n
  | .swi n => 0b111000001100#12 ++ n
  | .step blank => 0b111000001101#12 ++ blank
  | .halt n => 0b111000001110#12 ++ n
  | .brkpt blank => 0b111000001111#12 ++ blank
  | .cnt0 src => 0b111000010000#12 ++ src
  | .cnt1 src => 0b111000010001#12 ++ src
  | .set pos => 0b111000010010#12 ++ pos
  | .clr pos => 0b111000010011#12 ++ pos
  | .mtml src => 0b111000010100#12 ++ src
  | .mtmh src => 0b111000010101#12 ++ src
  | .mfml dst => 0b111000010110#12 ++ dst
  | .mfmh dst => 0b111000010111#12 ++ dst
  | .mtcr0 src => 0b111000011000#12 ++ src
  | .mtcr1 src => 0b111000011001#12 ++ src
  | .sync blank => 0b111000011010#12 ++ blank
  | .reservedE1B0 bits => 0b111000011011#12 ++ bits
  | .lsea idx => 0b111000011100#12 ++ idx
  | .lesa dst => 0b111000011101#12 ++ dst
  | .mfcr0 dst => 0b111000011110#12 ++ dst
  | .mfcr1 dst => 0b111000011111#12 ++ dst
  | .avgb dst src => 0b11100010#8 ++ dst ++ 0b0#1 ++ src
  | .avgs dst src => 0b11100010#8 ++ dst ++ 0b1#1 ++ src
  | .tst src2 src1 => 0b11100011#8 ++ src2 ++ src1
  | .lea dst idx => 0b11100100#8 ++ dst ++ idx
  | .ror imm dst => 0b111001010#9 ++ imm ++ dst
  | .rol imm dst => 0b111001011#9 ++ imm ++ dst
  | .mul dst src => 0b11100110#8 ++ dst ++ 0b0#1 ++ src
  | .mulu dst src => 0b11100110#8 ++ dst ++ 0b1#1 ++ src
  | .mac src2 src1 => 0b11100111#8 ++ src2 ++ src1
  | .ldbSp off dst => 0b111010000#9 ++ off ++ dst
  | .ldsSp off dst => 0b111010001#9 ++ off ++ dst
  | .ldbuSp off dst => 0b111010010#9 ++ off ++ dst
  | .ldsuSp off dst => 0b111010011#9 ++ off ++ dst
  | .stbSp off src => 0b111010100#9 ++ off ++ src
  | .stsSp off src => 0b111010101#9 ++ off ++ src
  | .ldau idx cr dst => 0b111010110#9 ++ idx ++ cr ++ dst
  | .stau idx cr src => 0b111010111#9 ++ idx ++ cr ++ src
  | .cpcmd cpno cmd => 0b111011#6 ++ cpno ++ 0b00#2 ++ cmd
  | .getc cpno pos => 0b111011#6 ++ cpno ++ 0b0100#4 ++ pos
  | .execCp cpno pos => 0b111011#6 ++ cpno ++ 0b0101#4 ++ pos
  | .mvtc cpno reg => 0b111011#6 ++ cpno ++ 0b0110#4 ++ reg
  | .mvfc cpno reg => 0b111011#6 ++ cpno ++ 0b0111#4 ++ reg
  | .ldcSp cpno reg => 0b111011#6 ++ cpno ++ 0b1000#4 ++ reg
  | .ldcIdx cpno reg => 0b111011#6 ++ cpno ++ 0b1001#4 ++ reg
  | .stcSp cpno reg => 0b111011#6 ++ cpno ++ 0b1010#4 ++ reg
  | .stcIdx cpno reg => 0b111011#6 ++ cpno ++ 0b1011#4 ++ reg
  | .reservedECC0 cpno bits => 0b111011#6 ++ cpno ++ 0b11#2 ++ bits
  | .macb src2 src1 => 0b11110000#8 ++ src2 ++ src1
  | .macs src2 src1 => 0b11110001#8 ++ src2 ++ src1
  | .msopb src2 src1 => 0b11110010#8 ++ src2 ++ src1
  | .msops src2 src1 => 0b11110011#8 ++ src2 ++ src1
  | .saddb dst src => 0b11110100#8 ++ dst ++ src
  | .sadds dst src => 0b11110101#8 ++ dst ++ src
  | .sadub dst src => 0b11110110#8 ++ dst ++ src
  | .sadus dst src => 0b11110111#8 ++ dst ++ src
  | .sadd dst src => 0b11111000#8 ++ dst ++ src
  | .upkls grp dst => 0b11111001#8 ++ grp ++ 0b0#1 ++ dst
  | .upkhs grp dst => 0b11111001#8 ++ grp ++ 0b1#1 ++ dst
  | .min dst src => 0b11111010#8 ++ dst ++ 0b0#1 ++ src
  | .max dst src => 0b11111010#8 ++ dst ++ 0b1#1 ++ src
  | .abs dst => 0b111110110000#12 ++ dst
  | .reservedFB80 bits => 0b111110111#9 ++ bits
  | .reservedFB40 bits => 0b1111101101#10 ++ bits
  | .reservedFB20 bits => 0b11111011001#11 ++ bits
  | .reservedFB10 bits => 0b111110110001#12 ++ bits
  | .upk0lb grp dst => 0b11111100#8 ++ grp ++ 0b0#1 ++ dst
  | .upk0hb grp dst => 0b11111100#8 ++ grp ++ 0b1#1 ++ dst
  | .upk1lb grp dst => 0b11111101#8 ++ grp ++ 0b0#1 ++ dst
  | .upk1hb grp dst => 0b11111101#8 ++ grp ++ 0b1#1 ++ dst
  | .upk2lb grp dst => 0b11111110#8 ++ grp ++ 0b0#1 ++ dst
  | .upk2hb grp dst => 0b11111110#8 ++ grp ++ 0b1#1 ++ dst
  | .upk3lb grp dst => 0b11111111#8 ++ grp ++ 0b0#1 ++ dst
  | .upk3hb grp dst => 0b11111111#8 ++ grp ++ 0b1#1 ++ dst

end Sys2Proof
end

