-- ==== Sys2Proof/Machine/Defaults.lean ====
section
/-! DEFINITION. The values 00_scope.md R8 gives the parameters by default: the configuration of
`State.reset`. Every statement about the model is for every value of `Params`; these only say which
machine runs when nothing else is asked for. -/

namespace Sys2Proof.Machine

/-- 10_state.md R25, the table of bit positions. -/
def defaultSrLayout : SrLayout where
  family := 28
  version := 24
  revision := 20
  nmi := 14
  int := 13
  vi := 12
  e := 11
  endian := 10
  l := 8
  c := 7
  z := 6
  s := 5
  v := 4

/-- 10_state.md R90: a local SPM bank is off, supervisor only, at address 0. -/
def defaultSpmBank : SpmBank where
  privilege := 0
  enable := 0
  start := 0
  last := 0

/-- 10_state.md R90: GAP 0x0700 and the local SPM registers are 0 unless `spm_param.vh` says otherwise. -/
def defaultSpmRegs : SpmRegs where
  excStatus := 0
  iConfig := 0
  iEnable := 0
  dConfig := 0
  dEnable := 0
  iBanks := Vector.replicate 4 defaultSpmBank
  dBanks := Vector.replicate 4 defaultSpmBank

/-- DESIGN CHOICE (log 3), unsafe: `RESET_SPR` is 0 in every register and flag. -/
def defaultResetSpr : ResetSpr where
  lr := 0
  er := 0
  mh := 0
  ml := 0
  mre := 0
  cr0 := 0
  cr1 := 0
  ssp := 0
  gapIndex := 0
  c := false
  z := false
  s := false
  v := false

/-- 00_scope.md R8's default column. `UserSysWrite` is a DESIGN CHOICE (log 2): R8's default makes no
claim, and R496 lists two values with an effect. The SPM sizes are a DESIGN CHOICE (log 16), and so are
the cache sizes, the bus and the two addresses, which no rule reads (log 38). -/
def defaultParams : Params where
  dspExt := true
  tlbConfig := .unified
  cacheAbsent := false
  cacheWays := 4
  cacheLine := 16
  icacheKb := 8
  dcacheKb := 8
  bus := .ahb
  intcAddr := 0
  pmuAddr := 0
  ispmBankSize := 2
  dspmBankSize := 2
  ispmPresent := 15
  dspmPresent := 15
  spmExternal := 0
  spmReset := defaultSpmRegs
  udiMode := .raise
  srLayout := defaultSrLayout
  extOffsetRule := .low4
  mulRdResult := .unspecified
  cvtRule := .zext
  userSysWrite := .privilegeViolation
  fixedVectors := [0x00, 0x0C, 0x10, 0x30, 0x34]
  idxMap := #v[0, 1, 2, 3]
  crStep := .default
  dspSupplied := []
  platform := [{ first := 0x00000000, last := 0x000FFFFF, kind := .ram }]
  resetGpr := Vector.replicate 16 0
  resetSpr := defaultResetSpr

end Sys2Proof.Machine
end

