-- ==== Sys2Proof/Machine/State.lean ====
section
/-! DEFINITION. The whole state of the machine as plain data, the reasons a step can stop, and the
state after reset (10_state.md). INVENTORY.md, section State, lists every field with its rule. -/

namespace Sys2Proof.Machine

/-! ### The status register -/

/-- The fields of SR (10_state.md R24). The identification fields and the unused bits are constants and
have no storage; R25 places the fields (`SR.toWord`). -/
structure SR where
  /-- SR[15], the high bit of Proc Mode. -/
  modeHi : Bool
  /-- SR[9], the low bit of Proc Mode. -/
  modeLo : Bool
  nmi : Bool
  int : Bool
  vi : Bool
  e : Bool
  endian : Bool
  l : Bool
  c : Bool
  z : Bool
  s : Bool
  v : Bool
  deriving DecidableEq, Repr

/-- The operation mode (R24, R28). -/
inductive Mode
  | supervisor
  /-- {SR[15], SR[9]} = 01, "Reserved". -/
  | reserved
  | user
  /-- {SR[15], SR[9]} = 11, "Undefined Mode". -/
  | undefinedMode
  deriving DecidableEq, Repr

/-! ### Special registers -/

/-- The special purpose registers other than SR and PC, and the two stack pointers (R20). -/
structure Spr where
  lr : Word
  er : Word
  mh : Word
  ml : Word
  mre : Word
  cr0 : Word
  cr1 : Word
  ssp : Word
  usp : Word
  deriving DecidableEq, Repr

/-! ### The system coprocessor -/

/-- One entry of the sub-bank table (R76). -/
structure SubBank where
  valid : Bool
  /-- Access right: `true` for supervisor and user, `false` for supervisor only. -/
  ar : Bool
  /-- Cache configuration. -/
  cc : BitVec 2
  /-- Base address bits 31:12. -/
  base : BitVec 20
  /-- Size mask. -/
  size : BitVec 12
  deriving DecidableEq, Repr

/-- One TLB entry: the virtual word of R50 and the physical page number (R77). -/
structure TlbEntry where
  vword : Word
  ppn : BitVec 20
  deriving DecidableEq, Repr

/-- The registers of the system coprocessor and of the general access point, and the tables behind
them (R45 to R77). -/
structure Scp where
  /-- SCPR3. -/
  gapIndex : Word
  /-- SCPR7: select 8, index 7:3, way 2:1, property 0. -/
  tlbIndex : BitVec 9
  /-- SCPR8[6:4]. -/
  subBankIndex : BitVec 3
  subBanks : Vector SubBank 8
  /-- TLB[sel][way][index] at `128 * sel + 32 * way + index`. -/
  tlb : Vector TlbEntry 256
  /-- SCPR9. -/
  memoryBank : Word
  /-- SCPR12. -/
  vectorBase : Word
  /-- SCPR15[5:2]. -/
  pendingCode : BitVec 4
  /-- SCPR15[1]. -/
  pending : Bool
  /-- GAP 0x0000[15:0]. -/
  backupIr : Half
  /-- GAP 0x0001. -/
  backupEr : Word
  /-- GAP 0x0002. -/
  backupPc : Word
  /-- GAP 0x0300. -/
  itlbMiss : Word
  /-- GAP 0x0301. -/
  dtlbMiss : Word
  /-- GAP 0x0302[7:0]. -/
  pid : BitVec 8
  /-- GAP 0x0500[3:0]. -/
  icacheLock : BitVec 4
  /-- GAP 0x0501[3:0]. -/
  dcacheLock : BitVec 4
  /-- GAP 0x0600. -/
  ibusError : Word
  /-- GAP 0x0601. -/
  dbusError : Word
  /-- GAP 0x0700 to 0x0736. -/
  spm : SpmRegs
  deriving DecidableEq, Repr

/-! ### Coprocessors 1 to 3 -/

/-- Coprocessor n, n = 1..3 (44_coprocessor.md R422): absent, or attached with the record an attaching
model must supply. -/
structure Coproc where
  present : Bool
  /-- Its access-right bit: user mode may not use it. -/
  supervisorOnly : Bool
  held : CoprocRegs
  deriving DecidableEq, Repr

/-! ### Storage -/

/-- Bytes by address, the addresses strictly rising, no byte listed that equals what an unlisted
address reads as (`Memory.wf`). -/
abbrev Memory := List Host.Cell

/-- The three storages an access can end in: what the bus reaches, and the two scratch-pads
(10_state.md R80). -/
inductive Space
  | bus
  | ispm
  | dspm
  deriving DecidableEq, Repr

/-- A byte of storage: a physical address on the bus, or bank and offset in a scratch-pad. -/
structure Loc where
  space : Space
  addr : Nat
  deriving DecidableEq, Repr

/-- A halfword that a store has changed and that a fetch may still return as it was (20_memory.md R183),
with the cache ways the program has still to write back and to invalidate. -/
structure Stale where
  loc : Loc
  old : Half
  /-- The store was to a region with its cache off. -/
  uncached : Bool
  /-- A SYNC has followed the store. -/
  synced : Bool
  writeBack : BitVec 8
  invalidate : BitVec 8
  deriving DecidableEq, Repr

/-! ### The environment -/

/-- The inputs at one unit boundary (60_exceptions.md R540, R577). -/
structure Boundary where
  resetReq : Bool
  nmiPending : Bool
  intPending : Bool
  /-- What `intc_number()` would return here. -/
  intcNumber : Word
  deriving DecidableEq, Repr

/-- The inputs still to come: one entry per unit boundary, one value per device read. A boundary past
the end of the list makes no request; a device read past the end returns a free value. -/
structure Env where
  boundaries : List Boundary
  deviceReads : List Word
  deriving DecidableEq, Repr

/-- The outputs of the machine (R577). -/
inductive Event
  /-- The special cycle to the interrupt controller (R568). -/
  | intAck
  /-- The special cycle of HALT to the power management unit (R570). -/
  | pmuHalt (level : BitVec 4)
  /-- The special cycle of an error that stops the processor (R561). -/
  | pmuError
  /-- A store to a device: physical address, bytes, value (R112). -/
  | deviceWrite (pa : Word) (bytes : Nat) (value : Word)
  deriving DecidableEq, Repr

/-! ### The machine -/

/-- The state of the AE32000C-Lucida. -/
structure State where
  /-- x[0] to x[15] (R21). -/
  gpr : Vector Word 16
  /-- The address of the first halfword of the instruction unit (R30). -/
  pc : Word
  /-- How many LERI halfwords of the unit have been executed (R12, R30). -/
  leris : Nat
  sr : SR
  spr : Spr
  scp : Scp
  cp1 : Coproc
  cp2 : Coproc
  cp3 : Coproc
  /-- What the bus reaches, by physical address. -/
  mem : Memory
  /-- Instruction SPM storage, by bank and offset. -/
  ispmMem : Memory
  /-- Data SPM storage, by bank and offset. -/
  dspmMem : Memory
  /-- R84. -/
  halted : Bool
  /-- 60_exceptions.md R561. -/
  lockup : Bool
  /-- 20_memory.md R183. -/
  stale : List Stale
  env : Env
  /-- The outputs so far, oldest first. -/
  events : List Event
  /-- The model's own: how many free values have been drawn (log 10). -/
  draws : Nat
  /-- The implementation parameters, which no step changes (log 1). -/
  cfg : Params
  deriving DecidableEq, Repr

/-- Why the machine stops: it has reached a condition that the spec leaves undefined and gives no
effect. Every one of these is SAFE: the model makes no claim where the hardware does something. -/
inductive Fault
  /-- Raised by a step in mode 01 "Reserved" or 11 "Undefined Mode" (10_state.md R28). Safe. -/
  | reservedMode
  /-- Raised by an access that two valid sub-banks match (20_memory.md R122). Safe. -/
  | subBankOverlap
  /-- Raised by an access that more than one TLB way matches (R132). Safe. -/
  | tlbDuplicate
  /-- Raised by an access that more than one enabled SPM region matches (R152). Safe. -/
  | spmOverlap
  /-- Raised by an access to an SPM region larger than its bank (R152). Safe. -/
  | spmRegionTooLarge
  /-- Raised by an access to an SPM whose configuration field is neither 0 nor 2 (R151). Safe. -/
  | spmConfigReserved
  /-- Raised on taking a vectored interrupt whose number is outside 0x20 to 0xFF (60_exceptions.md
  R543). Safe. -/
  | interruptNumber
  /-- Raised by Reset when the platform has no memory at physical address 0 (70_reset_and_hazards.md
  R580). Safe. -/
  | noResetMemory
  /-- Raised by JPLR, STEP, BRKPT and SYNC with a non-zero blank nibble (30_encoding.md R215). Safe. -/
  | blankBits
  /-- Raised by MRS, ROR and ROL after a LERI (30_encoding.md R214). Safe. -/
  | prefixedRotate
  /-- Raised in user mode by SET, CLR, POP SR and HALT when `UserSysWrite` is `refuse` (46_system.md
  R496). Safe. -/
  | userSysWrite
  deriving DecidableEq, Repr

/-- Why the model has no meaning for an instruction: it acts on a unit the spec does not describe.
Every one of these is SAFE. -/
inductive Refusal
  /-- Answered by `exec` for an instruction without a meaning. Safe. -/
  | notModelled (mnemonic : String)
  /-- Answered by STEP and BRKPT: the debug unit is not described (46_system.md R493, R494). Safe. -/
  | debugUnit
  /-- Answered by CPCMD, GETC and EXEC on coprocessor 0 in supervisor mode: no command and no status
  word of the system coprocessor is defined (44_coprocessor.md R423, R427, R428). Safe. -/
  | cp0Command
  /-- Answered by LDC and STC on coprocessor 0 in supervisor mode: they "cannot be used with the system
  coprocessor" (R429, R430). Safe. -/
  | cp0Transfer
  deriving DecidableEq, Repr

/-- What a step answers. -/
abbrev Outcome := Host.Outcome State Fault Refusal

/-- A coprocessor position with nothing attached (44_coprocessor.md R422). -/
def absentCoproc : Coproc where
  present := false
  supervisorOnly := false
  held := { status := 0, regs := Vector.replicate 16 0 }

/-- The machine right after reset (10_state.md R90, 70_reset_and_hazards.md R580) in the default
configuration, memory listing nothing: the reset vector, the word at physical address 0, then reads
as 0. Values the spec does not state are the parameters' (log 3) or 0 (log 5, log 15). -/
def State.reset : State where
  gpr := defaultParams.resetGpr
  pc := 0
  leris := 0
  sr :=
    { modeHi := false, modeLo := false, nmi := false, int := false, vi := false, e := false
      endian := false, l := false, c := defaultResetSpr.c, z := defaultResetSpr.z
      s := defaultResetSpr.s, v := defaultResetSpr.v }
  spr :=
    { lr := defaultResetSpr.lr, er := defaultResetSpr.er, mh := defaultResetSpr.mh
      ml := defaultResetSpr.ml, mre := defaultResetSpr.mre, cr0 := defaultResetSpr.cr0
      cr1 := defaultResetSpr.cr1, ssp := defaultResetSpr.ssp, usp := 0 }
  scp :=
    { gapIndex := defaultResetSpr.gapIndex
      tlbIndex := 0
      subBankIndex := 0
      subBanks := Vector.replicate 8 { valid := false, ar := false, cc := 0, base := 0, size := 0 }
      tlb := Vector.replicate 256 { vword := 0, ppn := 0 }
      memoryBank := 0
      vectorBase := 0
      pendingCode := 0b1111
      pending := false
      backupIr := 0
      backupEr := 0
      backupPc := 0
      itlbMiss := 0
      dtlbMiss := 0
      pid := 0
      icacheLock := 0
      dcacheLock := 0
      ibusError := 0
      dbusError := 0
      spm := defaultSpmRegs }
  cp1 := absentCoproc
  cp2 := absentCoproc
  cp3 := absentCoproc
  mem := []
  ispmMem := []
  dspmMem := []
  halted := false
  lockup := false
  stale := []
  env := { boundaries := [], deviceReads := [] }
  events := []
  draws := 0
  cfg := defaultParams

end Sys2Proof.Machine
end

