-- ==== Sys2Proof/Machine/Memory.lean ====
section
/-! DEFINITION. Storage: bytes by address in one canonical form, and the byte order of wider values
(20_memory.md R100 to R105). -/

namespace Sys2Proof.Machine

/-- The size of a data access: 1, 2 or 4 bytes (R103). -/
inductive AccessSize
  | byte
  | half
  | word
  deriving DecidableEq, Repr

/-- How many bytes an access touches. -/
def sizeBytes : AccessSize → Nat
  | .byte => 1
  | .half => 2
  | .word => 4

/-- What a byte that nothing has written reads as. DESIGN CHOICE (log 4), unsafe: the spec gives memory
no reset contents (10_state.md R90). -/
def unlistedByte : Byte := 0

/-- The byte at an address. -/
def readByte : Memory → Nat → Byte
  | [], _ => unlistedByte
  | (k, b) :: rest, a => if a = k then b else readByte rest a

/-- A byte listed before the first higher address. -/
def insertByte : Memory → Nat → Byte → Memory
  | [], a, b => [(a, b)]
  | (k, c) :: rest, a, b => if a < k then (a, b) :: (k, c) :: rest else (k, c) :: insertByte rest a b

/-- One byte stored: what was listed at the address goes, and the byte is listed unless it is what an
unlisted address reads as. -/
def writeByte (m : Memory) (a : Nat) (b : Byte) : Memory :=
  let others := m.filter fun c => c.1 ≠ a
  if b = unlistedByte then others else insertByte others a b

/-- The canonical form from address `lo` on. -/
def wfFrom : Nat → Memory → Bool
  | _, [] => true
  | lo, (k, b) :: rest => decide (lo ≤ k) && decide (b ≠ unlistedByte) && wfFrom (k + 1) rest

/-- The canonical form: addresses strictly rising, and no byte listed that an unlisted address reads
as. -/
def Memory.wf (m : Memory) : Bool := wfFrom 0 m

/-- `n` bytes from an address up. -/
def readBytes (m : Memory) (a : Nat) : Nat → List Byte
  | 0 => []
  | n + 1 => readByte m a :: readBytes m (a + 1) n

/-- Bytes stored from an address up. -/
def writeBytes (m : Memory) (a : Nat) : List Byte → Memory
  | [] => m
  | b :: bs => writeBytes (writeByte m a b) (a + 1) bs

/-- A value's bytes in little-endian order. -/
def littleEndianBytes (v : Word) : AccessSize → List Byte
  | .byte => [v.extractLsb' 0 8]
  | .half => [v.extractLsb' 0 8, v.extractLsb' 8 8]
  | .word => [v.extractLsb' 0 8, v.extractLsb' 8 8, v.extractLsb' 16 8, v.extractLsb' 24 8]

/-- The low `size` of a value as bytes, lowest address first (R100). -/
def valueBytes (bigEndian : Bool) (size : AccessSize) (v : Word) : List Byte :=
  if bigEndian then (littleEndianBytes v size).reverse else littleEndianBytes v size

/-- The value of bytes in little-endian order. -/
def littleEndianValue : List Byte → Word
  | [] => 0
  | b :: bs => b.setWidth 32 ||| (littleEndianValue bs <<< 8)

/-- The value of bytes, lowest address first (R100), zero-extended to a word. -/
def bytesValue (bigEndian : Bool) (bs : List Byte) : Word :=
  littleEndianValue (if bigEndian then bs.reverse else bs)

/-- A value read from storage. -/
def readSized (bigEndian : Bool) (m : Memory) (a : Nat) (size : AccessSize) : Word :=
  bytesValue bigEndian (readBytes m a (sizeBytes size))

/-- A value written to storage. -/
def writeSized (bigEndian : Bool) (m : Memory) (a : Nat) (size : AccessSize) (v : Word) : Memory :=
  writeBytes m a (valueBytes bigEndian size v)

/-- The low `size` of a value, zero-extended. -/
def truncateTo (size : AccessSize) (v : Word) : Word :=
  match size with
  | .byte => (v.extractLsb' 0 8).setWidth 32
  | .half => (v.extractLsb' 0 16).setWidth 32
  | .word => v

/-- One of the three storages. -/
def State.storage (s : State) : Space → Memory
  | .bus => s.mem
  | .ispm => s.ispmMem
  | .dspm => s.dspmMem

/-- One of the three storages replaced. -/
def State.withStorage (s : State) (space : Space) (m : Memory) : State :=
  match space with
  | .bus => { s with mem := m }
  | .ispm => { s with ispmMem := m }
  | .dspm => { s with dspmMem := m }

/-- The byte of storage at a location: the model's read of one byte. -/
def State.byteAt (s : State) (l : Loc) : Byte := readByte (s.storage l.space) l.addr

end Sys2Proof.Machine
end

