-- ==== Sys2Proof/Machine/Registers.lean ====
section
/-! DEFINITION. The registers and how they are read and written: general registers, stack pointers, LR,
SR and its fields, pc, and the free values (10_state.md sections 2 to 9). -/

namespace Sys2Proof.Machine

/-! ### Free values -/

/-- One "any value", and the state that has drawn it (log 10). -/
def draw (s : State) : Word × State := (Config.draw s.draws, { s with draws := s.draws + 1 })

/-! ### General registers (R21) -/

def readReg (s : State) (r : Reg) : Word := s.gpr[r.toNat]'r.isLt

def writeReg (s : State) (r : Reg) (v : Word) : State := { s with gpr := s.gpr.set r.toNat v r.isLt }

/-! ### Mode and stack pointers -/

/-- {SR[15], SR[9]} (R24, R28). -/
def SR.mode (sr : SR) : Mode :=
  match sr.modeHi, sr.modeLo with
  | false, false => .supervisor
  | false, true => .reserved
  | true, false => .user
  | true, true => .undefinedMode

def isUser (s : State) : Bool := s.sr.mode == .user

/-- `SP`: the stack pointer of the current mode (R36). -/
def readSp (s : State) : Word := if isUser s then s.spr.usp else s.spr.ssp

/-- A write of `SP`; bits 1:0 are always 0 (R38). -/
def writeSp (s : State) (v : Word) : State :=
  if isUser s then { s with spr := { s.spr with usp := v &&& 0xFFFFFFFC } }
  else { s with spr := { s.spr with ssp := v &&& 0xFFFFFFFC } }

/-- A write of LR; bit 0 is always 0 (R32). -/
def writeLr (s : State) (v : Word) : State := { s with spr := { s.spr with lr := v &&& 0xFFFFFFFE } }

/-! ### The program counter (R30, R31) -/

/-- The address of the halfword being executed: the unit's first halfword, past its LERIs. -/
def fetchAddr (s : State) : Word := s.pc + 2 * BitVec.ofNat 32 s.leris

/-- `next`: the address of the halfword after the unit (R30). -/
def nextAddr (s : State) : Word := fetchAddr s + 2

/-- The end of a unit with the next one at `target`: pc has bit 0 clear (R31), and SR.E is cleared
(30_encoding.md R209). -/
def jumpTo (target : Word) (s : State) : State :=
  { s with pc := target &&& 0xFFFFFFFE, leris := 0, sr := { s.sr with e := false } }

/-- The end of a unit that does not assign pc: `pc <- next`. -/
def retire (s : State) : State := jumpTo (nextAddr s) s

/-! ### The status register as a word (R24, R25) -/

/-- A word with one bit, or none, set. -/
def bitAt (b : Bool) (position : Nat) : Word := if b then 1#32 <<< position else 0

/-- A word with a 4-bit field. -/
def fieldAt (v : BitVec 4) (position : Nat) : Word := v.setWidth 32 <<< position

/-- SR as a word: Processor Family 4, Version 3, Revision 1, unused bits 0, the mode field at bits 15 and 9,
the other fields where `SR_LAYOUT` places them. -/
def SR.toWord (layout : SrLayout) (sr : SR) : Word :=
  fieldAt 4 layout.family.toNat ||| fieldAt 3 layout.version.toNat ||| fieldAt 1 layout.revision.toNat
    ||| bitAt sr.modeHi 15 ||| bitAt sr.modeLo 9
    ||| bitAt sr.nmi layout.nmi.toNat ||| bitAt sr.int layout.int.toNat ||| bitAt sr.vi layout.vi.toNat
    ||| bitAt sr.e layout.e.toNat ||| bitAt sr.endian layout.endian.toNat ||| bitAt sr.l layout.l.toNat
    ||| bitAt sr.c layout.c.toNat ||| bitAt sr.z layout.z.toNat ||| bitAt sr.s layout.s.toNat
    ||| bitAt sr.v layout.v.toNat

/-- SR as PUSH and exception entry store it: with E = 0 (R29). -/
def savedSr (s : State) : Word := SR.toWord s.cfg.srLayout { s.sr with e := false }

/-- `WriteSR` (40_load_store.md R290): the fields from a word; the read-only ones, identification,
Endian and the unused bits, keep their value, and E is 0. -/
def SR.ofWord (layout : SrLayout) (old : SR) (w : Word) : SR where
  modeHi := w.getLsbD 15
  modeLo := w.getLsbD 9
  nmi := w.getLsbD layout.nmi.toNat
  int := w.getLsbD layout.int.toNat
  vi := w.getLsbD layout.vi.toNat
  e := false
  endian := old.endian
  l := w.getLsbD layout.l.toNat
  c := w.getLsbD layout.c.toNat
  z := w.getLsbD layout.z.toNat
  s := w.getLsbD layout.s.toNat
  v := w.getLsbD layout.v.toNat

/-- `WriteSR` in user mode when `UserSysWrite` is `ignore`: "system bits keep their value; the user
flags are written" (46_system.md R496). -/
def SR.ofWordUser (layout : SrLayout) (old : SR) (w : Word) : SR :=
  { old with
    e := false
    c := w.getLsbD layout.c.toNat
    z := w.getLsbD layout.z.toNat
    s := w.getLsbD layout.s.toNat
    v := w.getLsbD layout.v.toNat }

/-- What a bit of SR[15:0] is (R25). -/
inductive SrField
  | modeHi
  | modeLo
  | nmi
  | int
  | vi
  | e
  | endian
  | l
  | c
  | z
  | s
  | v
  | unused
  deriving DecidableEq, Repr

/-- The field at a bit position: the mode field first, whose position is certain. -/
def srFieldAt (layout : SrLayout) (position : BitVec 4) : SrField :=
  if position = 15 then .modeHi
  else if position = 9 then .modeLo
  else if position = layout.nmi then .nmi
  else if position = layout.int then .int
  else if position = layout.vi then .vi
  else if position.setWidth 5 = layout.e then .e
  else if position.setWidth 5 = layout.endian then .endian
  else if position = layout.l then .l
  else if position = layout.c then .c
  else if position = layout.z then .z
  else if position = layout.s then .s
  else if position = layout.v then .v
  else .unused

/-- The system bits of 46_system.md R496: mode, NMI, INT, VI and L. -/
def isSystemField : SrField → Bool
  | .modeHi | .modeLo | .nmi | .int | .vi | .l => true
  | .e | .endian | .c | .z | .s | .v | .unused => false

/-- SET or CLR of one bit (46_system.md R497, R498): no effect on Endian, E and the unused bits. -/
def SR.withField (sr : SR) (field : SrField) (b : Bool) : SR :=
  match field with
  | .modeHi => { sr with modeHi := b }
  | .modeLo => { sr with modeLo := b }
  | .nmi => { sr with nmi := b }
  | .int => { sr with int := b }
  | .vi => { sr with vi := b }
  | .l => { sr with l := b }
  | .c => { sr with c := b }
  | .z => { sr with z := b }
  | .s => { sr with s := b }
  | .v => { sr with v := b }
  | .e | .endian | .unused => sr

/-- The bits of the identification fields. -/
def SrLayout.idBits (layout : SrLayout) : List Nat :=
  [layout.family, layout.version, layout.revision].flatMap fun p => [0, 1, 2, 3].map (p.toNat + ·)

/-- The bits of the mode field and the flags. -/
def SrLayout.flagBits (layout : SrLayout) : List Nat :=
  [15, 9, layout.nmi.toNat, layout.int.toNat, layout.vi.toNat, layout.e.toNat, layout.endian.toNat,
    layout.l.toNat, layout.c.toNat, layout.z.toNat, layout.s.toNat, layout.v.toNat]

/-- `SR_LAYOUT` is usable: every field lies in the word, and no two share a bit. -/
def SrLayout.wf (layout : SrLayout) : Bool :=
  decide ((SrLayout.flagBits layout ++ SrLayout.idBits layout).Nodup ∧ ∀ p ∈ SrLayout.idBits layout, p < 32)

end Sys2Proof.Machine
end

