-- ==== Sys2Proof/Machine/Flags.lean ====
section
/-! DEFINITION. The flags C, Z, S and V (43_arith_logic.md R360). -/

namespace Sys2Proof.Machine

/-- `NZ(r)`: Z and S from a result. -/
def flagsNz (r : Word) (sr : SR) : SR := { sr with z := r == 0, s := r.msb }

/-- Carry out of bit 31 of `a + b + cin`. -/
def carryOut (a b : Word) (cin : Bool) : Bool := decide (2 ^ 32 ≤ a.toNat + b.toNat + cin.toNat)

/-- Overflow of an addition with result `r`: operands of one sign, a result of the other. -/
def addOverflow (a b r : Word) : Bool := a.msb == b.msb && r.msb != a.msb

/-- Borrow of `a - b - bin`. -/
def borrowOut (a b : Word) (bin : Bool) : Bool := decide (a.toNat < b.toNat + bin.toNat)

/-- Overflow of a subtraction with result `r`. -/
def subOverflow (a b r : Word) : Bool := a.msb != b.msb && r.msb != a.msb

/-- A carry as a word. -/
def carryWord (c : Bool) : Word := if c then 1 else 0

/-- `a + b + cin`. -/
def addResult (a b : Word) (cin : Bool) : Word := a + b + carryWord cin

/-- `a - b - bin`. -/
def subResult (a b : Word) (bin : Bool) : Word := a - b - carryWord bin

/-- C, Z, S and V of an addition. -/
def flagsAdd (a b : Word) (cin : Bool) (sr : SR) : SR :=
  flagsNz (addResult a b cin)
    { sr with c := carryOut a b cin, v := addOverflow a b (addResult a b cin) }

/-- C, Z, S and V of a subtraction or compare. -/
def flagsSub (a b : Word) (bin : Bool) (sr : SR) : SR :=
  flagsNz (subResult a b bin)
    { sr with c := borrowOut a b bin, v := subOverflow a b (subResult a b bin) }

/-- The last bit a right shift by `n` moves out: `a[n-1]` (R371). -/
def lastOutRight (a : Word) (n : Nat) : Bool := a.getLsbD (n - 1)

/-- The last bit a left shift by `n` moves out: `a[32-n]` (R373). -/
def lastOutLeft (a : Word) (n : Nat) : Bool := a.getLsbD (32 - n)

/-- Four free flags out of one free value (R394, 45_dsp.md R442). -/
def flagsFree (d : Word) (sr : SR) : SR :=
  { sr with c := d.getLsbD 0, z := d.getLsbD 1, s := d.getLsbD 2, v := d.getLsbD 3 }

/-- C, Z, S and V each unspecified. -/
def drawFlags (s : State) : State :=
  let d := draw s
  { d.2 with sr := flagsFree d.1 d.2.sr }

end Sys2Proof.Machine
end

