-- ==== Sys2Proof/Machine/Operands.lean ====
section
/-! DEFINITION. Operands: how a field and the extension state make an immediate, an offset or a register
operand (30_encoding.md R208 to R214). -/

namespace Sys2Proof.Machine

/-- `sext_n` of a field. -/
def sext {n : Nat} (f : BitVec n) : Word := f.signExtend 32

/-- `zext` of a field. -/
def zext {n : Nat} (f : BitVec n) : Word := f.setWidth 32

/-- R210: ER supplies bits 31:4 and a 4-bit field bits 3:0. -/
def extendLow4 (er : Word) (low : Word) : Word := (er <<< 4) ||| (low &&& 0xF)

/-- R210, 43_arith_logic.md R376: the `src/imm` operand. -/
def srcImm (s : State) (field : Reg) : Word :=
  if s.sr.e then extendLow4 s.spr.er (zext field) else readReg s field

/-- R212: a field scaled by `2^k`, whose value without a prefix is `plain`. -/
def scaledField {n : Nat} (s : State) (f : BitVec n) (k : Nat) (plain : Word) : Word :=
  if s.sr.e then
    match s.cfg.extOffsetRule with
    | .low4 => extendLow4 s.spr.er (zext f <<< k)
    | .full => (s.spr.er <<< n) ||| zext f
  else plain

/-- R212: a load or store offset. -/
def offsetImm {n : Nat} (s : State) (f : BitVec n) (k : Nat) : Word := scaledField s f k (zext f <<< k)

/-- R212: the immediate of LDI. -/
def ldiImm (s : State) (imm : BitVec 8) : Word := scaledField s imm 0 (sext imm)

/-- R212: the offset of LEA(ASPO). -/
def aspoImm (s : State) (off : BitVec 8) : Word := scaledField s off 2 (sext off <<< 2)

/-- R211: an immediate that has no field of its own. -/
def erImm (s : State) : Word := if s.sr.e then s.spr.er else 0

/-- R213: a branch displacement. -/
def branchDisp (s : State) (off : BitVec 8) : Word :=
  if s.sr.e then ((s.spr.er <<< 8) ||| zext off) <<< 1 else sext off <<< 1

/-- log2 of the size of an access in bytes (R212). -/
def sizeLog : AccessSize → Nat
  | .byte => 0
  | .half => 1
  | .word => 2

/-- 40_load_store.md R270, index form: `x[idx] + off`. -/
def indexAddr {n : Nat} (s : State) (idx : Reg) (f : BitVec n) (size : AccessSize) : Word :=
  readReg s idx + offsetImm s f (sizeLog size)

/-- R270, SP form: `SP + off`. -/
def spAddr {n : Nat} (s : State) (f : BitVec n) (size : AccessSize) : Word :=
  readSp s + offsetImm s f (sizeLog size)

/-- The general register an even-register field names: `x[2*d3]` (43_arith_logic.md R380). -/
def evenReg (d : BitVec 3) : Reg := d ++ 0#1

/-- The register after it. -/
def oddReg (d : BitVec 3) : Reg := d ++ 1#1

/-- The general register a 3-bit destination names: R0 to R7 (45_dsp.md section 6). -/
def lowReg (d : BitVec 3) : Reg := 0#1 ++ d

/-- 43_arith_logic.md R371: the amount of a register shift, the low 5 bits of the register. -/
def shiftAmount (s : State) (r : Reg) : BitVec 5 := (readReg s r).extractLsb' 0 5

end Sys2Proof.Machine
end

