-- ==== Sys2Proof/Machine/Access.lean ====
section
/-! DEFINITION. One memory access: the checks of 20_memory.md R110 in their order, what a failing one
records, and the access itself. -/

namespace Sys2Proof.Machine

/-! ### What an access answers -/

/-- The kind of an access (R110). -/
inductive AccessKind
  | fetch
  | read
  | write
  deriving DecidableEq, Repr

/-- What a part of an instruction answers. -/
inductive Acc (α : Type)
  /-- It is done. -/
  | ok (value : α) (s : State)
  /-- It has raised the exception of this vector offset; the state holds what the raise records. -/
  | raise (offset : Word) (s : State)
  /-- The spec does not define what happens. -/
  | fault (reason : Fault)

/-- One part after another, as far as nothing raises. -/
def andThen {α β : Type} (a : Acc α) (f : α → State → Acc β) : Acc β :=
  match a with
  | .ok v s => f v s
  | .raise off s => .raise off s
  | .fault r => .fault r

/-- What RaiseSCP records (60_exceptions.md R545, R547): the code and the pending flag of SCPR15. -/
def latchScp (code : BitVec 4) (s : State) : State :=
  { s with scp := { s.scp with pendingCode := code, pending := true } }

/-- The SCP exception, vector offset 0x20 (R545). -/
def raiseScp {α : Type} (code : BitVec 4) (s : State) : Acc α := .raise 0x20 (latchScp code s)

/-- The access violation code: 0000 for a fetch, 0100 for data (R124, R133, R153). -/
def violationCode : AccessKind → BitVec 4
  | .fetch => 0b0000
  | .read | .write => 0b0100

/-- The TLB miss code: 0001 for a fetch, 0101 for data (R131). -/
def missCode : AccessKind → BitVec 4
  | .fetch => 0b0001
  | .read | .write => 0b0101

/-- The miss address registers, latched on every TLB condition (R135). -/
def latchMiss (kind : AccessKind) (va : Word) (s : State) : State :=
  match kind with
  | .fetch => { s with scp := { s.scp with itlbMiss := va } }
  | .read | .write => { s with scp := { s.scp with dtlbMiss := va } }

/-- RaiseBusError (60_exceptions.md R548): the physical address latched by side, vector offset 0x10. -/
def raiseBusError {α : Type} (kind : AccessKind) (pa : Word) (s : State) : Acc α :=
  match kind with
  | .fetch => .raise 0x10 { s with scp := { s.scp with ibusError := pa } }
  | .read | .write => .raise 0x10 { s with scp := { s.scp with dbusError := pa } }

/-! ### Where an access ends -/

/-- What answers an access that has passed the checks. -/
inductive Target
  /-- Storage, with the cache configuration of the access. -/
  | storage (l : Loc) (cc : BitVec 2)
  /-- A device register at a physical address (R112). -/
  | device (pa : Word)
  /-- Nothing, and no error (R113). -/
  | openBus
  deriving DecidableEq, Repr

/-- R103: is the address suitable for the size? -/
def isAligned (size : AccessSize) (va : Word) : Bool :=
  match size with
  | .byte => true
  | .half => va.extractLsb' 0 1 == 0
  | .word => va.extractLsb' 0 2 == 0

/-! ### Scratch-pad memory (R150 to R153) -/

/-- A scratch-pad region that an address lies in. -/
structure SpmHit where
  space : Space
  bank : BitVec 2
  regs : SpmBank
  /-- Configuration field. -/
  config : BitVec 4
  /-- Size code of the physical bank. -/
  sizeCode : BitVec 4
  deriving DecidableEq, Repr

/-- R152: the regions of one scratch-pad that `va` lies in: global and local enable 0001, start and end
included. Configuration 0 uses region 0 alone (R151). DESIGN CHOICE (log 44): the region of a bank that the
implementation lacks matches nothing, whatever its registers hold. -/
def spmHitsIn (space : Space) (present enable config sizeCode : BitVec 4) (banks : Vector SpmBank 4)
    (va : Word) : List SpmHit :=
  [0#2, 1#2, 2#2, 3#2].filterMap fun n =>
    let regs := banks[n.toNat]'n.isLt
    if enable = 1 ∧ regs.enable = 1 ∧ present.getLsbD n.toNat = true ∧ (config ≠ 0 ∨ n = 0)
        ∧ regs.start ≤ va ∧ va ≤ regs.last then
      some { space, bank := n, regs, config, sizeCode }
    else none

/-- The regions of both scratch-pads that `va` lies in. -/
def spmHits (s : State) (va : Word) : List SpmHit :=
  spmHitsIn .ispm s.cfg.ispmPresent s.scp.spm.iEnable s.scp.spm.iConfig s.cfg.ispmBankSize
      s.scp.spm.iBanks va
    ++ spmHitsIn .dspm s.cfg.dspmPresent s.scp.spm.dEnable s.scp.spm.dConfig s.cfg.dspmBankSize
      s.scp.spm.dBanks va

/-- The size of a physical bank in bytes: 1 KB shifted left by the size code (10_state.md R70). -/
def spmBankBytes (sizeCode : BitVec 4) : Nat := 2 ^ (10 + sizeCode.toNat)

/-- R152: byte `va` of region n is byte `va - start_n` of physical bank n. DESIGN CHOICE (log 16): bank n's
bytes are held from `n * 2^26` on, and a wider access that begins in the region and runs past its end, or
past the bank, goes on in them. -/
def spmLoc (hit : SpmHit) (va : Word) : Loc where
  space := hit.space
  addr := hit.bank.toNat * 2 ^ 26 + (va - hit.regs.start).toNat

/-- R153: a user access to a supervisor-only region; GAP 0x0700[31:28] records which side. -/
def raiseSpmViolation {α : Type} (kind : AccessKind) (s : State) : Acc α :=
  let status : BitVec 4 := match kind with
    | .fetch => 0b0010
    | .read | .write => 0b0001
  raiseScp (violationCode kind)
    { s with scp := { s.scp with spm := { s.scp.spm with excStatus := status } } }

/-- Step 2 of R110 for an address inside the region `hit` and the regions `more`. DESIGN CHOICE (log 39):
every Privilege Mode value but 1, of which the spec defines only 0, is supervisor-only. -/
def locateSpm (kind : AccessKind) (user : Bool) (va : Word) (hit : SpmHit) (more : List SpmHit)
    (s : State) : Acc Target :=
  if hit.config ≠ 0 ∧ hit.config ≠ 2 then .fault .spmConfigReserved
  else if more ≠ [] then .fault .spmOverlap
  else if spmBankBytes hit.sizeCode < (hit.regs.last - hit.regs.start).toNat + 1 then
    .fault .spmRegionTooLarge
  else if user && hit.regs.privilege != 1 then raiseSpmViolation kind s
  else .ok (.storage (spmLoc hit va) 0) s

/-! ### The bus -/

/-- The first region of the platform map that holds a physical address (R111). -/
def regionAt (platform : List Region) (pa : Word) : Option RegionKind :=
  (platform.find? fun r => decide (r.first ≤ pa ∧ pa ≤ r.last)).map (·.kind)

/-- Step 6 of R110: Bus Error if the platform has nothing at `pa` (R113). -/
def locateBus (kind : AccessKind) (pa : Word) (cc : BitVec 2) (s : State) : Acc Target :=
  match regionAt s.cfg.platform pa with
  | some .ram => .ok (.storage { space := .bus, addr := pa.toNat } cc) s
  | some .device => .ok (.device pa) s
  | some .openBus => .ok .openBus s
  | none => raiseBusError kind pa s

/-! ### The memory bank management unit (R120 to R124) -/

/-- The nibble of SCPR9 for the bank of an address, b = va[31:29] (R120). -/
def bankNibble (s : State) (va : Word) : BitVec 4 :=
  s.scp.memoryBank.extractLsb' (4 * (va.extractLsb' 29 3).toNat) 4

/-- R122: `valid == 1` and `(pa[31:12] | size) == (base | size)`. -/
def subBankMatches (pa : Word) (b : SubBank) : Bool :=
  b.valid && (pa.extractLsb' 12 20 ||| b.size.setWidth 20) == (b.base ||| b.size.setWidth 20)

/-- Step 5 of R110: a matching sub-bank's attributes, else the bank's (R123), and the access right
check (R124); pa = va. -/
def locateMbmu (kind : AccessKind) (user : Bool) (va : Word) (s : State) : Acc Target :=
  match s.scp.subBanks.toList.filter (subBankMatches va) with
  | [] =>
    if user && !(bankNibble s va).getLsbD 2 then raiseScp (violationCode kind) s
    else locateBus kind va ((bankNibble s va).extractLsb' 0 2) s
  | [b] =>
    if user && !b.ar then raiseScp (violationCode kind) s
    else locateBus kind va b.cc s
  | _ => .fault .subBankOverlap

/-! ### The TLB (R130 to R142) -/

/-- Which array is searched (R131, R142): the single one when unified, else by side. -/
def tlbSelect (cfg : Params) (kind : AccessKind) : BitVec 1 :=
  match cfg.tlbConfig, kind with
  | .none, _ => 0
  | .unified, _ => 0
  | .separated64, .fetch => 0
  | .separated128, .fetch => 0
  | .separated64, _ => 1
  | .separated128, _ => 1

/-- The set an address selects (R132): va[16:12], or va[15:12] with 16 entries in a way. -/
def tlbSet (cfg : Params) (va : Word) : BitVec 5 :=
  match cfg.tlbConfig with
  | .separated64 => (va.extractLsb' 12 4).setWidth 5
  | .none | .unified | .separated128 => va.extractLsb' 12 5

/-- The place of an entry in the entry store (10_state.md R77). -/
def tlbSlot (sel : BitVec 1) (way : BitVec 2) (index : BitVec 5) : BitVec 8 := sel ++ way ++ index

def readTlb (s : State) (slot : BitVec 8) : TlbEntry := s.scp.tlb[slot.toNat]'slot.isLt

def writeTlb (s : State) (slot : BitVec 8) (e : TlbEntry) : State :=
  { s with scp := { s.scp with tlb := s.scp.tlb.set slot.toNat e slot.isLt } }

/-- R132: valid, the same va[31:17], and global or of the current process. -/
def tlbMatches (pid : BitVec 8) (va : Word) (e : TlbEntry) : Bool :=
  e.vword.getLsbD 0 && e.vword.extractLsb' 17 15 == va.extractLsb' 17 15
    && (e.vword.getLsbD 7 || e.vword.extractLsb' 8 8 == pid)

/-- The slots of the ways that match an address: four ways under every `TLB_CONFIG` but none (R131, R140).
DESIGN CHOICE (log 45): Table 5.5's builds of fewer ways are no value of `TLB_CONFIG`, and its 4 x 16, there
not supported, runs as `TLB_CONFIG` 10. -/
def tlbHits (s : State) (kind : AccessKind) (va : Word) : List (BitVec 8) :=
  ([0#2, 1#2, 2#2, 3#2].map fun way => tlbSlot (tlbSelect s.cfg kind) way (tlbSet s.cfg va)).filter
    fun slot => tlbMatches s.scp.pid va (readTlb s slot)

/-- A TLB condition: the miss address latched, then the SCP exception (R134, R135). -/
def raiseTlb {α : Type} (kind : AccessKind) (code : BitVec 4) (va : Word) (s : State) : Acc α :=
  raiseScp code (latchMiss kind va s)

/-- R131: a write sets dirty and accessed, any other access accessed. -/
def touchTlb (kind : AccessKind) (slot : BitVec 8) (s : State) : State :=
  let e := readTlb s slot
  match kind with
  | .write => writeTlb s slot { e with vword := e.vword ||| 0x22 }
  | .fetch | .read => writeTlb s slot { e with vword := e.vword ||| 0x02 }

/-- Step 4 of R110: the lookup of R131, the read-only check before the access right (R133). -/
def locateTlb (kind : AccessKind) (user : Bool) (va : Word) (s : State) : Acc Target :=
  match tlbHits s kind va with
  | [] => raiseTlb kind (missCode kind) va s
  | [slot] =>
    let e := readTlb s slot
    if kind = .write ∧ e.vword.getLsbD 6 = false then raiseTlb kind 0b0110 va s
    else if user && !e.vword.getLsbD 2 then raiseTlb kind (violationCode kind) va s
    else
      locateBus kind (e.ppn ++ va.extractLsb' 0 12) (e.vword.extractLsb' 3 2) (touchTlb kind slot s)
  | _ => .fault .tlbDuplicate

/-! ### The whole path -/

/-- The checks of R110, in its order: where an access of `kind` at `va` ends, made with user rights or
with supervisor rights. DESIGN CHOICE (log 47): a bank whose TLB bit is set on a machine without a TLB is
accessed with physical addresses, and its sub-banks are consulted. -/
def locate (kind : AccessKind) (user : Bool) (size : AccessSize) (va : Word) (s : State) : Acc Target :=
  if kind ≠ .fetch ∧ isAligned size va = false then raiseScp 0b0011 s
  else
    match spmHits s va with
    | hit :: more => locateSpm kind user va hit more s
    | [] =>
      if (bankNibble s va).getLsbD 3 && s.cfg.tlbConfig != .none then locateTlb kind user va s
      else locateMbmu kind user va s

/-! ### Stale instructions (R183) -/

/-- Every way of a cache, as a mask. -/
def allWays (cfg : Params) : BitVec 8 :=
  if cfg.cacheAbsent then 0 else BitVec.ofNat 8 (2 ^ cfg.cacheWays - 1)

/-- R161: configurations 10 and 11 use the cache. DESIGN CHOICE (log 19): the reserved 01 is off like 00,
as 93_implementation_defined.md gives it no effect on the model. -/
def cacheOff (cc : BitVec 2) : Bool := !cc.getLsbD 1

/-- What a fetch may go on returning after the halfword at `l`, which read `old`, has been stored to with
the cache configuration `cc`, and what R183 asks for first: copy-back of a write-back line and
invalidation in the instruction cache. -/
def staleEntry (cfg : Params) (l : Loc) (cc : BitVec 2) (old : Half) : Stale where
  loc := l
  old := old
  uncached := cacheOff cc
  synced := false
  writeBack := if l.space = .bus ∧ cc = 0b11 then allWays cfg else 0
  invalidate := if l.space = .bus then allWays cfg else 0

/-- R183, last sentence: where both caches are off, the store's and that of a fetch with configuration
`cc`, SYNC alone is enough. -/
def Stale.settled (cc : BitVec 2) (e : Stale) : Bool := e.synced && e.uncached && cacheOff cc

/-- The halfword at a storage address. -/
def halfAt (s : State) (l : Loc) : Half := (readSized s.sr.endian (s.storage l.space) l.addr .half).setWidth 16

/-- The halfwords a store of `size` at `l` touches, on the bus those at even addresses. -/
def storedHalves (l : Loc) (size : AccessSize) : List Loc :=
  (List.range (sizeBytes size + 1)).filterMap fun i =>
    if l.addr + i = 0 ∨ (l.space = .bus ∧ (l.addr + i) % 2 = 0) then none
    else some { l with addr := l.addr + i - 1 }

/-! ### The access itself -/

/-- The next device input (R112), a free value when the environment supplies none (log 9). -/
def deviceRead (s : State) : Word × State :=
  match s.env.deviceReads with
  | [] => draw s
  | v :: rest => (v, { s with env := { s.env with deviceReads := rest } })

/-- The value a target holds, zero-extended. -/
def readTarget (size : AccessSize) (t : Target) (s : State) : Word × State :=
  match t with
  | .storage l _ => (readSized s.sr.endian (s.storage l.space) l.addr size, s)
  | .device _ => ((truncateTo size (deviceRead s).1), (deviceRead s).2)
  | .openBus => ((truncateTo size (draw s).1), (draw s).2)

/-- Storage written, with the halfwords it leaves stale. -/
def storeAt (size : AccessSize) (l : Loc) (cc : BitVec 2) (v : Word) (s : State) : State :=
  let stored := s.withStorage l.space (writeSized s.sr.endian (s.storage l.space) l.addr size v)
  { stored with
    stale := (storedHalves l size).map (fun h => staleEntry s.cfg h cc (halfAt s h)) ++ s.stale }

/-- A value stored to a target. -/
def writeTarget (size : AccessSize) (t : Target) (v : Word) (s : State) : State :=
  match t with
  | .storage l cc => storeAt size l cc v s
  | .device pa => { s with events := s.events ++ [.deviceWrite pa (sizeBytes size) (truncateTo size v)] }
  | .openBus => s

/-- `MemRead` (00_scope.md R11, 20_memory.md R105) with the rights of user or supervisor mode. -/
def memReadAs (user : Bool) (size : AccessSize) (va : Word) (s : State) : Acc Word :=
  andThen (locate .read user size va s) fun t s => .ok (readTarget size t s).1 (readTarget size t s).2

/-- `MemWrite` with the rights of user or supervisor mode. -/
def memWriteAs (user : Bool) (size : AccessSize) (va v : Word) (s : State) : Acc Unit :=
  andThen (locate .write user size va s) fun t s => .ok () (writeTarget size t v s)

/-- `MemRead` in the current mode. -/
def memRead (size : AccessSize) (va : Word) (s : State) : Acc Word := memReadAs (isUser s) size va s

/-- `MemWrite` in the current mode. -/
def memWrite (size : AccessSize) (va v : Word) (s : State) : Acc Unit := memWriteAs (isUser s) size va v s

/-- The halfwords a fetch from `l` with cache configuration `cc` may return: the current one, and those
that R183 leaves open. -/
def fetchChoices (s : State) (l : Loc) (cc : BitVec 2) : List Half :=
  halfAt s l :: (s.stale.filter fun e => e.loc = l && !e.settled cc).map (·.old)

/-- One of the choices, a free one when there are several (R183, log 19). -/
def fetchFrom (l : Loc) (cc : BitVec 2) (s : State) : Half × State :=
  match fetchChoices s l cc with
  | [w] => (w, s)
  | ws => (ws.getD ((draw s).1.toNat % ws.length) 0, (draw s).2)

/-- `Fetch` (R104, R105): the halfword at the fetch address, in the current mode. -/
def fetchHalf (s : State) : Acc Half :=
  andThen (locate .fetch (isUser s) .half (fetchAddr s) s) fun t s =>
    match t with
    | .storage l cc => .ok (fetchFrom l cc s).1 (fetchFrom l cc s).2
    | t => .ok ((readTarget .half t s).1.setWidth 16) (readTarget .half t s).2

/-- A halfword placed where the next fetch reads it, from outside the machine (log 7): in storage, with
nothing stale left there. -/
def placeHalf (w : Half) (s : State) : State :=
  match locate .fetch (isUser s) .half (fetchAddr s) s with
  | .ok (.storage l _) _ =>
    { s.withStorage l.space
        (writeSized s.sr.endian (s.storage l.space) l.addr .half (w.setWidth 32)) with
      stale := s.stale.filter fun e => e.loc ≠ l }
  | _ => s

end Sys2Proof.Machine
end

