-- ==== Sys2Proof/Machine/Ops.lean ====
section
/-! DEFINITION. Taking an exception and returning from one (60_exceptions.md R530 to R535, R560, R561),
the exceptions an instruction raises itself, and how an instruction ends. -/

namespace Sys2Proof.Machine

/-! ### Taking an exception -/

/-- `kind` of R530: only an NMI differs (R531). -/
inductive EntryKind
  | normal
  | nmi
  deriving DecidableEq, Repr

/-- `VectorAddr(off)` (R522). -/
def vectorAddr (off : Word) (s : State) : Word :=
  (if off ∈ s.cfg.fixedVectors then 0 else s.scp.vectorBase) + off

/-- `EntrySR(kind)` (R531): supervisor mode, INT and E clear, NMI clear for an NMI. -/
def entrySr (kind : EntryKind) (sr : SR) : SR :=
  { sr with
    modeHi := false, modeLo := false, int := false, e := false
    nmi := match kind with
      | .normal => sr.nmi
      | .nmi => false }

/-- The three accesses of an entry, as supervisor-mode data accesses: SR and PC pushed at SSP, then the
vector read (R530). -/
def entryAccesses (srSaved savedPc vector : Word) (s : State) : Acc Word :=
  andThen (memWriteAs false .word (s.spr.ssp - 4) srSaved s) fun _ s =>
  andThen (memWriteAs false .word (s.spr.ssp - 8) savedPc s) fun _ s =>
  memReadAs false .word vector s

/-- What an entry whose accesses have succeeded leaves: SSP, SR, not halted, pc at the handler (R530). -/
def enterHandler (kind : EntryKind) (handler : Word) (s : State) : State :=
  jumpTo handler
    { s with halted := false, sr := entrySr kind s.sr, spr := { s.spr with ssp := s.spr.ssp - 8 } }

/-- `Lockup()` (R561): `pmu_error` emitted, and a state that only Reset leaves. -/
def lockUp (s : State) : State :=
  { s with lockup := true, leris := 0, sr := { s.sr with e := false }, events := s.events ++ [.pmuError] }

/-- `DoubleFault` (R560): the frame of the failed entry and the vector at 0x0000000C, never relocated. -/
def doubleFault (srSaved savedPc : Word) (kind : EntryKind) (s : State) : Outcome :=
  match entryAccesses srSaved savedPc 0x0C s with
  | .ok handler s => .next (enterHandler kind handler s)
  | .raise _ s => .next (lockUp s)
  | .fault r => .fault r

/-- `ExceptionEntry(off, saved_pc, kind)` (R530). -/
def exceptionEntry (off savedPc : Word) (kind : EntryKind) (s : State) : Outcome :=
  match entryAccesses (savedSr s) savedPc (vectorAddr off s) s with
  | .ok handler s => .next (enterHandler kind handler s)
  | .raise _ s' => doubleFault (savedSr s) savedPc kind s'
  | .fault r => .fault r

/-! ### Returning from an exception -/

/-- `assign` of POP for SR (40_load_store.md R290): `WriteSR`, or in user mode with `UserSysWrite` =
`ignore` the flags alone (46_system.md R496). -/
def popSr (user : Bool) (w : Word) (s : State) : State :=
  if user then { s with sr := SR.ofWordUser s.cfg.srLayout s.sr w }
  else { s with sr := SR.ofWord s.cfg.srLayout s.sr w }

/-- The end of a POP that may hold PC and SR (R290): with both it is the return from an exception
(60_exceptions.md R535), which restores SR as saved and continues at the saved PC. `user` is the mode in
which the POP began. -/
def exceptionReturn (user : Bool) (pcWord srWord : Option Word) (s : State) : State :=
  let restored := match srWord with
    | some w => popSr user w s
    | none => s
  match pcWord with
  | some t => jumpTo t restored
  | none => retire restored

/-! ### How an instruction ends -/

/-- A fault of the unit: entry with `pc` saved (R532). -/
def takeFault (off : Word) (s : State) : Outcome := exceptionEntry off s.pc .normal s

/-- A trap: entry with `next` saved (R532). -/
def takeTrap (off : Word) (s : State) : Outcome := exceptionEntry off (nextAddr s) .normal s

/-- An instruction whose accesses are `a`: what follows them, or the exception they raised. -/
def conclude {α : Type} (a : Acc α) (f : α → State → Outcome) : Outcome :=
  match a with
  | .ok v s => f v s
  | .raise off s => takeFault off s
  | .fault r => .fault r

/-- The privilege violation, SCP code 0010 (R545, 44_coprocessor.md R421). -/
def privilegeViolation (s : State) : Outcome := takeFault 0x20 (latchScp 0b0010 s)

/-- `UserSysWrite` (46_system.md R496): what user mode gets, given what `ignore` does. -/
def userSysWrite (ignored : State → Outcome) (s : State) : Outcome :=
  match s.cfg.userSysWrite with
  | .refuse => .fault .userSysWrite
  | .ignore => ignored s
  | .privilegeViolation => privilegeViolation s

/-- `LatchBackup()` (60_exceptions.md R552) for the halfword `w`; Backup ER without a LERI prefix is
unspecified. -/
def latchBackup (w : Half) (s : State) : State :=
  if s.sr.e then
    { s with scp := { s.scp with backupIr := w, backupEr := s.spr.er, backupPc := nextAddr s - 2 } }
  else
    let d := draw s
    { d.2 with scp := { d.2.scp with backupIr := w, backupEr := d.1, backupPc := nextAddr s - 2 } }

/-- A reserved halfword (R551): UDI, or by `UDI_MODE` a NOP. -/
def undefinedInstruction (w : Half) (s : State) : Outcome :=
  match s.cfg.udiMode with
  | .raise => takeFault 0x38 (latchBackup w s)
  | .nop => .next (retire s)

/-- The Unimplemented Instruction exception (R553). -/
def unimplementedInstruction (w : Half) (s : State) : Outcome := takeFault 0x3C (latchBackup w s)

end Sys2Proof.Machine
end

