-- ==== Sys2Proof/Machine/Arith.lean ====
section
/-! DEFINITION. Arithmetic, logic, shift, multiply, extension and count instructions
(43_arith_logic.md). -/

namespace Sys2Proof.Machine

/-! ### Shared operations -/

/-- A result into a register, with the flags it leaves. -/
def finishAlu (dst : Reg) (r : Word) (sr : SR) (s : State) : Outcome :=
  .next (retire (writeReg { s with sr := sr } dst r))

/-- Flags alone. -/
def finishFlags (sr : SR) (s : State) : Outcome := .next (retire { s with sr := sr })

/-- A result with Z and S from it. -/
def finishNz (dst : Reg) (r : Word) (s : State) : Outcome := finishAlu dst r (flagsNz r s.sr) s

/-- An addition into `dst`. -/
def addInto (dst : Reg) (b : Word) (cin : Bool) (s : State) : Outcome :=
  finishAlu dst (addResult (readReg s dst) b cin) (flagsAdd (readReg s dst) b cin s.sr) s

/-- A subtraction into `dst`. -/
def subInto (dst : Reg) (b : Word) (bin : Bool) (s : State) : Outcome :=
  finishAlu dst (subResult (readReg s dst) b bin) (flagsSub (readReg s dst) b bin s.sr) s

/-- A compare of `r` with `b`. -/
def compareWith (r : Reg) (b : Word) (s : State) : Outcome :=
  finishFlags (flagsSub (readReg s r) b false s.sr) s

/-- The four shifts (R371 to R374). -/
inductive ShiftKind
  | asr
  | lsr
  | asl
  | ssl
  deriving DecidableEq, Repr

/-- The result of a shift by `n`. -/
def shiftResult (kind : ShiftKind) (a : Word) (n : Nat) : Word :=
  match kind with
  | .asr => a.sshiftRight n
  | .lsr => a >>> n
  | .asl => a <<< n
  | .ssl => (a <<< n) ||| ((1 <<< n) - 1)

/-- The last bit a shift by `n > 0` moves out. -/
def shiftCarry (kind : ShiftKind) (a : Word) (n : Nat) : Bool :=
  match kind with
  | .asr | .lsr => lastOutRight a n
  | .asl | .ssl => lastOutLeft a n

/-- A shift of `dst` by `n`: C is the last bit out, unspecified for n = 0; Z and S from the result. -/
def shiftInto (kind : ShiftKind) (dst : Reg) (n : BitVec 5) (s : State) : Outcome :=
  let r := shiftResult kind (readReg s dst) n.toNat
  if n = 0 then
    let d := draw s
    finishAlu dst r (flagsNz r { s.sr with c := d.1.getLsbD 0 }) d.2
  else finishAlu dst r (flagsNz r { s.sr with c := shiftCarry kind (readReg s dst) n.toNat }) s

/-- A 64-bit value into MH:ML (R380). -/
def writeProduct (p : BitVec 64) (s : State) : State :=
  { s with spr := { s.spr with mh := p.extractLsb' 32 32, ml := p.extractLsb' 0 32 } }

/-- `MulRdEffect(d3, p)` (R384). -/
def mulRdEffect (d : BitVec 3) (p : BitVec 64) (s : State) : State :=
  match s.cfg.mulRdResult with
  | .unspecified =>
    let d0 := draw s
    let d1 := draw d0.2
    writeReg (writeReg d1.2 (evenReg d) d0.1) (oddReg d) d1.1
  | .unchanged => s
  | .low32 => writeReg s (evenReg d) (p.extractLsb' 0 32)
  | .pair => writeReg (writeReg s (evenReg d) (p.extractLsb' 0 32)) (oddReg d) (p.extractLsb' 32 32)

/-- How many bits equal to `b` stand at the top of the low `n` bits of `v`. -/
def leadingCount (b : Bool) (v : Word) : Nat → Nat
  | 0 => 0
  | n + 1 => if v.getLsbD n = b then leadingCount b v n + 1 else 0

/-- The count of leading bits replaces the operand; Z from it (R396, R397). -/
def countInto (b : Bool) (r : Reg) (s : State) : Outcome :=
  let n := BitVec.ofNat 32 (leadingCount b (readReg s r) 32)
  finishAlu r n { s.sr with z := n == 0 } s

/-- A signed value clamped to a range. -/
def clamp (lo hi : Int) (v : Int) : Int := if v < lo then lo else if hi < v then hi else v

/-- `CvtRule` (R392, R393): the low `n` bits zero-extended, or the word saturated to `n` signed bits. -/
def convertTo (n : Nat) (rule : CvtRule) (v : Word) : Word :=
  match rule with
  | .zext => zext (v.extractLsb' 0 n)
  | .saturate => BitVec.ofInt 32 (clamp (-(2 ^ (n - 1))) (2 ^ (n - 1) - 1) v.toInt)

/-! ### Add, subtract, logic, compare -/

/-- ADD src/imm, dst (R361). -/
def execAdd (dst : Reg) (src : Reg) (s : State) : Outcome := addInto dst (srcImm s src) false s

/-- ADC src/imm, dst (R362). -/
def execAdc (dst : Reg) (src : Reg) (s : State) : Outcome := addInto dst (srcImm s src) s.sr.c s

/-- SUB src/imm, dst (R363). -/
def execSub (dst : Reg) (src : Reg) (s : State) : Outcome := subInto dst (srcImm s src) false s

/-- SBC src/imm, dst (R364). -/
def execSbc (dst : Reg) (src : Reg) (s : State) : Outcome := subInto dst (srcImm s src) s.sr.c s

/-- AND src/imm, dst (R365). -/
def execAnd (dst : Reg) (src : Reg) (s : State) : Outcome := finishNz dst (readReg s dst &&& srcImm s src) s

/-- OR src/imm, dst (R366). -/
def execOr (dst : Reg) (src : Reg) (s : State) : Outcome := finishNz dst (readReg s dst ||| srcImm s src) s

/-- XOR src/imm, dst (R367). -/
def execXor (dst : Reg) (src : Reg) (s : State) : Outcome := finishNz dst (readReg s dst ^^^ srcImm s src) s

/-- CMP src/imm, dst (R368). -/
def execCmp (dst : Reg) (src : Reg) (s : State) : Outcome := compareWith dst (srcImm s src) s

/-- ADDQ imm, dst (R369). -/
def execAddq (dst : Reg) (imm : BitVec 5) (s : State) : Outcome := addInto dst (sext imm) false s

/-- CMPQ imm, src (R370). -/
def execCmpq (src : Reg) (imm : BitVec 5) (s : State) : Outcome := compareWith src (sext imm) s

/-- TST src1, src2 (R375). -/
def execTst (src2 : Reg) (src1 : Reg) (s : State) : Outcome :=
  finishFlags (flagsNz (readReg s src2 &&& srcImm s src1) s.sr) s

/-! ### Shifts -/

/-- ASR sftamt, dst (R371). -/
def execAsrImm (dst : Reg) (sftamt : BitVec 5) (s : State) : Outcome := shiftInto .asr dst sftamt s

/-- LSR sftamt, dst (R372). -/
def execLsrImm (dst : Reg) (sftamt : BitVec 5) (s : State) : Outcome := shiftInto .lsr dst sftamt s

/-- ASL sftamt, dst (R373). -/
def execAslImm (dst : Reg) (sftamt : BitVec 5) (s : State) : Outcome := shiftInto .asl dst sftamt s

/-- SSL sftamt, dst (R374). -/
def execSslImm (dst : Reg) (sftamt : BitVec 5) (s : State) : Outcome := shiftInto .ssl dst sftamt s

/-- ASR sftreg, dst (R371). -/
def execAsrReg (dst : Reg) (sftreg : Reg) (s : State) : Outcome :=
  shiftInto .asr dst (shiftAmount s sftreg) s

/-- LSR sftreg, dst (R372). -/
def execLsrReg (dst : Reg) (sftreg : Reg) (s : State) : Outcome :=
  shiftInto .lsr dst (shiftAmount s sftreg) s

/-- ASL sftreg, dst (R373). -/
def execAslReg (dst : Reg) (sftreg : Reg) (s : State) : Outcome :=
  shiftInto .asl dst (shiftAmount s sftreg) s

/-- SSL sftreg, dst (R374). -/
def execSslReg (dst : Reg) (sftreg : Reg) (s : State) : Outcome :=
  shiftInto .ssl dst (shiftAmount s sftreg) s

/-! ### Multiply -/

/-- The exact signed product, modulo 2^64. -/
def signedProduct (a b : Word) : BitVec 64 := BitVec.ofInt 64 (a.toInt * b.toInt)

/-- The exact unsigned product. -/
def unsignedProduct (a b : Word) : BitVec 64 := BitVec.ofNat 64 (a.toNat * b.toNat)

/-- MUL src/imm, dst (R380). -/
def execMul (dst : BitVec 3) (src : Reg) (s : State) : Outcome :=
  let p := signedProduct (readReg s (evenReg dst)) (srcImm s src)
  .next (retire (mulRdEffect dst p (writeProduct p s)))

/-- MULU src/imm, dst (R381). -/
def execMulu (dst : BitVec 3) (src : Reg) (s : State) : Outcome :=
  let p := unsignedProduct (readReg s (evenReg dst)) (srcImm s src)
  .next (retire (mulRdEffect dst p (writeProduct p s)))

/-- MAC src1, src2 (R382). -/
def execMac (src2 : Reg) (src1 : Reg) (s : State) : Outcome :=
  .next (retire (writeProduct
    ((s.spr.mh ++ s.spr.ml) + signedProduct (readReg s src2) (srcImm s src1)) s))

/-! ### Extension, conversion, negate, not, count -/

/-- EXTB dst (R390). -/
def execExtb (dst : Reg) (s : State) : Outcome := finishNz dst (sext ((readReg s dst).extractLsb' 0 8)) s

/-- EXTS dst (R391). -/
def execExts (dst : Reg) (s : State) : Outcome := finishNz dst (sext ((readReg s dst).extractLsb' 0 16)) s

/-- CVB dst (R392). -/
def execCvb (dst : Reg) (s : State) : Outcome := finishNz dst (convertTo 8 s.cfg.cvtRule (readReg s dst)) s

/-- CVS dst (R393). -/
def execCvs (dst : Reg) (s : State) : Outcome := finishNz dst (convertTo 16 s.cfg.cvtRule (readReg s dst)) s

/-- NEG dst (R394); the flags are unspecified. -/
def execNeg (dst : Reg) (s : State) : Outcome :=
  .next (retire (drawFlags (writeReg s dst (0 - readReg s dst))))

/-- NOT dst (R395). -/
def execNot (dst : Reg) (s : State) : Outcome := finishNz dst (~~~readReg s dst) s

/-- CNT0 src (R396). -/
def execCnt0 (src : Reg) (s : State) : Outcome := countInto false src s

/-- CNT1 src (R397). -/
def execCnt1 (src : Reg) (s : State) : Outcome := countInto true src s

end Sys2Proof.Machine
end

