-- ==== Sys2Proof/Machine/Branch.lean ====
section
/-! DEFINITION. Branches (42_branch.md). -/

namespace Sys2Proof.Machine

/-- The target of a PC-relative branch, `next + disp` (R330). -/
def branchTarget (off : BitVec 8) (s : State) : Word := nextAddr s + branchDisp s off

/-- A conditional jump (R331). -/
def branchIf (taken : Bool) (off : BitVec 8) (s : State) : Outcome :=
  .next (if taken then jumpTo (branchTarget off s) s else retire s)

/-- JNV label (R332). -/
def execJnv (off : BitVec 8) (s : State) : Outcome := branchIf (!s.sr.v) off s

/-- JV label (R333). -/
def execJv (off : BitVec 8) (s : State) : Outcome := branchIf s.sr.v off s

/-- JP label (R334). -/
def execJp (off : BitVec 8) (s : State) : Outcome := branchIf (!s.sr.s) off s

/-- JM label (R335). -/
def execJm (off : BitVec 8) (s : State) : Outcome := branchIf s.sr.s off s

/-- JNZ label (R336). -/
def execJnz (off : BitVec 8) (s : State) : Outcome := branchIf (!s.sr.z) off s

/-- JZ label (R337). -/
def execJz (off : BitVec 8) (s : State) : Outcome := branchIf s.sr.z off s

/-- JNC label (R338). -/
def execJnc (off : BitVec 8) (s : State) : Outcome := branchIf (!s.sr.c) off s

/-- JC label (R339). -/
def execJc (off : BitVec 8) (s : State) : Outcome := branchIf s.sr.c off s

/-- JGT label (R340). -/
def execJgt (off : BitVec 8) (s : State) : Outcome := branchIf (!s.sr.z && s.sr.s == s.sr.v) off s

/-- JLT label (R341). -/
def execJlt (off : BitVec 8) (s : State) : Outcome := branchIf (s.sr.s != s.sr.v) off s

/-- JGE label (R342). -/
def execJge (off : BitVec 8) (s : State) : Outcome := branchIf (s.sr.s == s.sr.v) off s

/-- JLE label (R343). -/
def execJle (off : BitVec 8) (s : State) : Outcome := branchIf (s.sr.z || s.sr.s != s.sr.v) off s

/-- JHI label (R344). -/
def execJhi (off : BitVec 8) (s : State) : Outcome := branchIf (!s.sr.c && !s.sr.z) off s

/-- JLS label (R345). -/
def execJls (off : BitVec 8) (s : State) : Outcome := branchIf (s.sr.c || s.sr.z) off s

/-- JMP label (R346). -/
def execJmp (off : BitVec 8) (s : State) : Outcome := .next (jumpTo (branchTarget off s) s)

/-- JAL label (R347). -/
def execJal (off : BitVec 8) (s : State) : Outcome :=
  .next (jumpTo (branchTarget off s) (writeLr s (nextAddr s)))

/-- JR src (R348). -/
def execJr (src : Reg) (s : State) : Outcome := .next (jumpTo (readReg s src) s)

/-- JALR src (R349). -/
def execJalr (src : Reg) (s : State) : Outcome :=
  .next (jumpTo (readReg s src) (writeLr s (nextAddr s)))

/-- JPLR (R350); a non-zero blank nibble is outside the spec (30_encoding.md R215). -/
def execJplr (blank : BitVec 4) (s : State) : Outcome :=
  if blank = 0 then .next (jumpTo s.spr.lr s) else .fault .blankBits

end Sys2Proof.Machine
end

