-- ==== Sys2Proof/Machine/Scp.lean ====
section
/-! DEFINITION. The registers of the system coprocessor behind MVTC and MVFC: SCPR0 to SCPR15, the
general access point, and the cache control commands (10_state.md R45 to R77, 44_coprocessor.md R425,
R426, 20_memory.md R163 to R168). -/

namespace Sys2Proof.Machine

/-! ### The general access point -/

/-- The registers of the map of 10_state.md R63. -/
inductive GapReg
  | backupIr
  | backupEr
  | backupPc
  | ead
  | itlbMiss
  | dtlbMiss
  | pid
  | icacheLock
  | dcacheLock
  | ibusError
  | dbusError
  | spmGlobal
  | iControl (n : BitVec 2)
  | iStart (n : BitVec 2)
  | iEnd (n : BitVec 2)
  | dControl (n : BitVec 2)
  | dStart (n : BitVec 2)
  | dEnd (n : BitVec 2)
  deriving DecidableEq, Repr

/-- The local SPM registers, index 0x07nk with n = 0..3 (R71, R72). -/
def gapLocalReg (n : BitVec 2) (k : BitVec 4) : Option GapReg :=
  match k.toNat with
  | 1 => some (.iControl n)
  | 2 => some (.iStart n)
  | 3 => some (.iEnd n)
  | 4 => some (.dControl n)
  | 5 => some (.dStart n)
  | 6 => some (.dEnd n)
  | _ => none

/-- The register an index names, if any (R63). -/
def gapReg (index : Word) : Option GapReg :=
  if index = 0x0000 then some .backupIr
  else if index = 0x0001 then some .backupEr
  else if index = 0x0002 then some .backupPc
  else if index = 0x0010 then some .ead
  else if index = 0x0300 then some .itlbMiss
  else if index = 0x0301 then some .dtlbMiss
  else if index = 0x0302 then some .pid
  else if index = 0x0500 then some .icacheLock
  else if index = 0x0501 then some .dcacheLock
  else if index = 0x0600 then some .ibusError
  else if index = 0x0601 then some .dbusError
  else if index = 0x0700 then some .spmGlobal
  else if index.extractLsb' 6 26 = 0x1C then
    gapLocalReg (index.extractLsb' 4 2) (index.extractLsb' 0 4)
  else none

/-- R70: GAP 0x0700 as a word. -/
def spmGlobalWord (s : State) : Word :=
  s.scp.spm.excStatus ++ 0#4 ++ s.cfg.ispmBankSize ++ s.scp.spm.iConfig ++ s.scp.spm.iEnable
    ++ s.cfg.dspmBankSize ++ s.scp.spm.dConfig ++ s.scp.spm.dEnable

/-- R71: a local control register as a word. -/
def spmControlWord (s : State) (b : SpmBank) : Word := 0#20 ++ s.cfg.spmExternal ++ b.privilege ++ b.enable

/-- `GapRead` (44_coprocessor.md R426): an unspecified value for EAD and for an unknown index. DESIGN CHOICE
(log 43): the bits called Reserved without a value, 31:4 of 0x0500 and 0x0501 and 31:8 of 0x0302, read 0. -/
def gapRead (index : Word) (s : State) : Word × State :=
  match gapReg index with
  | some .backupIr => (zext s.scp.backupIr, s)
  | some .backupEr => (s.scp.backupEr, s)
  | some .backupPc => (s.scp.backupPc, s)
  | some .itlbMiss => (s.scp.itlbMiss, s)
  | some .dtlbMiss => (s.scp.dtlbMiss, s)
  | some .pid => (zext s.scp.pid, s)
  | some .icacheLock => (zext s.scp.icacheLock, s)
  | some .dcacheLock => (zext s.scp.dcacheLock, s)
  | some .ibusError => (s.scp.ibusError, s)
  | some .dbusError => (s.scp.dbusError, s)
  | some .spmGlobal => (spmGlobalWord s, s)
  | some (.iControl n) => (spmControlWord s (s.scp.spm.iBanks[n.toNat]'n.isLt), s)
  | some (.iStart n) => ((s.scp.spm.iBanks[n.toNat]'n.isLt).start, s)
  | some (.iEnd n) => ((s.scp.spm.iBanks[n.toNat]'n.isLt).last, s)
  | some (.dControl n) => (spmControlWord s (s.scp.spm.dBanks[n.toNat]'n.isLt), s)
  | some (.dStart n) => ((s.scp.spm.dBanks[n.toNat]'n.isLt).start, s)
  | some (.dEnd n) => ((s.scp.spm.dBanks[n.toNat]'n.isLt).last, s)
  | some .ead => draw s
  | none => draw s

/-- The SPM registers replaced. -/
def withSpm (spm : SpmRegs) (s : State) : State := { s with scp := { s.scp with spm := spm } }

/-- R70: the writable fields of GAP 0x0700. -/
def writeSpmGlobal (v : Word) (s : State) : State :=
  withSpm { s.scp.spm with
    iConfig := v.extractLsb' 16 4
    iEnable := v.extractLsb' 12 4
    dConfig := v.extractLsb' 4 4
    dEnable := v.extractLsb' 0 4 } s

/-- One local iSPM register set changed. -/
def changeISpm (n : BitVec 2) (f : SpmBank → SpmBank) (s : State) : State :=
  let banks := s.scp.spm.iBanks
  withSpm { s.scp.spm with iBanks := banks.set n.toNat (f (banks[n.toNat]'n.isLt)) n.isLt } s

/-- One local dSPM register set changed. -/
def changeDSpm (n : BitVec 2) (f : SpmBank → SpmBank) (s : State) : State :=
  let banks := s.scp.spm.dBanks
  withSpm { s.scp.spm with dBanks := banks.set n.toNat (f (banks[n.toNat]'n.isLt)) n.isLt } s

/-- R71: the writable fields of a local control register. -/
def withSpmControl (v : Word) (b : SpmBank) : SpmBank :=
  { b with privilege := v.extractLsb' 4 4, enable := v.extractLsb' 0 4 }

/-- `GapWrite` (44_coprocessor.md R425): the writable fields; nothing for a read-only or unknown index. -/
def gapWrite (index v : Word) (s : State) : State :=
  match gapReg index with
  | some .pid => { s with scp := { s.scp with pid := v.extractLsb' 0 8 } }
  | some .spmGlobal => writeSpmGlobal v s
  | some (.iControl n) => changeISpm n (withSpmControl v) s
  | some (.iStart n) => changeISpm n (fun b => { b with start := v }) s
  | some (.iEnd n) => changeISpm n (fun b => { b with last := v }) s
  | some (.dControl n) => changeDSpm n (withSpmControl v) s
  | some (.dStart n) => changeDSpm n (fun b => { b with start := v }) s
  | some (.dEnd n) => changeDSpm n (fun b => { b with last := v }) s
  | some .backupIr | some .backupEr | some .backupPc | some .ead | some .itlbMiss | some .dtlbMiss
  | some .icacheLock | some .dcacheLock | some .ibusError | some .dbusError | none => s

/-! ### Cache control (20_memory.md R163 to R168) -/

/-- Does an invalidation command reach a line: the ways it clears of the line of `l`. -/
def commandWays (cfg : Params) (v : Word) (l : Loc) : BitVec 8 :=
  if v.getLsbD 3 then 1#8 <<< (v.extractLsb' 4 3).toNat
  else if l.space = .bus ∧ l.addr / cfg.cacheLine = (v &&& 0xFFFFFFF0).toNat / cfg.cacheLine then
    BitVec.allOnes 8
  else 0

/-- What an invalidation leaves to be done for a stale halfword (R183): first copy-back from the data
cache, then invalidation in the instruction cache. -/
def staleAfter (cfg : Params) (v : Word) (e : Stale) : Stale :=
  if v.getLsbD 0 then
    if v.getLsbD 2 then { e with writeBack := e.writeBack &&& ~~~(commandWays cfg v e.loc) } else e
  else if e.writeBack = 0 then { e with invalidate := e.invalidate &&& ~~~(commandWays cfg v e.loc) }
  else e

/-- `CacheCommand(v)`: bit 1 clear, an invalidation (R164, R165); bit 1 set, a lock bit read (R166) or,
with bit 2 set, a lock (R167, R168), which changes nothing a program sees. -/
def cacheCommand (v : Word) (s : State) : State :=
  if !v.getLsbD 1 then { s with stale := s.stale.map (staleAfter s.cfg v) }
  else if v.getLsbD 2 then s
  else
    let d := draw s
    if v.getLsbD 0 then { d.2 with scp := { d.2.scp with dcacheLock := d.1.extractLsb' 0 4 } }
    else { d.2 with scp := { d.2.scp with icacheLock := d.1.extractLsb' 0 4 } }

/-- What SYNC does to stale halfwords (R183): those maintained before it are gone, the others have had
their SYNC. -/
def syncStale (s : State) : State :=
  { s with stale := (s.stale.filter fun e => !(e.writeBack == 0 && e.invalidate == 0)).map fun e =>
      { e with synced := true } }

/-! ### SCPR0 to SCPR15 -/

/-- The TLB entry SCPR7 selects (10_state.md R51, R77): one array unless the TLB is separated, and only
the low four index bits when a way has 16 entries (DEDUCED, log 17). With no TLB SCPR6 still reads and
writes the entries of one array, which no access consults (DESIGN CHOICE, log 42). -/
def selectedSlot (s : State) : BitVec 8 :=
  let index := s.scp.tlbIndex.extractLsb' 3 5
  let way := s.scp.tlbIndex.extractLsb' 1 2
  match s.cfg.tlbConfig with
  | .none | .unified => tlbSlot 0 way index
  | .separated64 => tlbSlot (s.scp.tlbIndex.extractLsb' 8 1) way ((index.extractLsb' 0 4).setWidth 5)
  | .separated128 => tlbSlot (s.scp.tlbIndex.extractLsb' 8 1) way index

/-- The sub-bank SCPR8[6:4] selects. -/
def selectedSubBank (s : State) : SubBank :=
  s.scp.subBanks[s.scp.subBankIndex.toNat]'s.scp.subBankIndex.isLt

/-- A sub-bank replaced. -/
def writeSubBank (k : BitVec 3) (b : SubBank) (s : State) : State :=
  { s with scp := { s.scp with subBanks := s.scp.subBanks.set k.toNat b k.isLt } }

/-- SCPR15[20:19] (10_state.md R60). -/
def tlbConfigCode : TlbConfig → BitVec 2
  | .none => 0b00
  | .unified => 0b01
  | .separated64 => 0b10
  | .separated128 => 0b11

/-- The status register, SCPR15 as read (R60). -/
def statusWord (s : State) : Word :=
  0b1001#4 ++ 0#7 ++ tlbConfigCode s.cfg.tlbConfig ++ BitVec.ofBool s.cfg.cacheAbsent ++ 0b11#2 ++ 0#10
    ++ s.scp.pendingCode ++ BitVec.ofBool s.scp.pending ++ 0#1

/-- MVTC 0, n with the value `v` (R425). -/
def scprWrite (n : BitVec 4) (v : Word) (s : State) : State :=
  match n.toNat with
  | 3 => { s with scp := { s.scp with gapIndex := v } }
  | 4 => gapWrite s.scp.gapIndex v s
  | 5 =>
    writeSubBank s.scp.subBankIndex
      { selectedSubBank s with base := v.extractLsb' 12 20, size := v.extractLsb' 0 12 } s
  | 6 =>
    let e := readTlb s (selectedSlot s)
    if s.scp.tlbIndex.getLsbD 0 then writeTlb s (selectedSlot s) { e with ppn := v.extractLsb' 12 20 }
    else writeTlb s (selectedSlot s) { e with vword := v }
  | 7 => { s with scp := { s.scp with tlbIndex := v.extractLsb' 0 9 } }
  | 8 =>
    let s' := { s with scp := { s.scp with subBankIndex := v.extractLsb' 4 3 } }
    writeSubBank (v.extractLsb' 4 3)
      { selectedSubBank s' with
        valid := v.getLsbD 3, ar := v.getLsbD 2, cc := v.extractLsb' 0 2 } s'
  | 9 => { s with scp := { s.scp with memoryBank := v } }
  | 11 => cacheCommand v s
  | 12 => { s with scp := { s.scp with vectorBase := v &&& 0xFFFFFC00 } }
  | 13 => { s with spr := { s.spr with usp := v &&& 0xFFFFFFFC } }
  | 15 => { s with scp := { s.scp with pending := false, pendingCode := 0b1111 } }
  | _ => s

/-- MVFC 0, n (R426): an unspecified value for a reserved or write-only register. -/
def scprRead (n : BitVec 4) (s : State) : Word × State :=
  match n.toNat with
  | 3 => (s.scp.gapIndex, s)
  | 4 => gapRead s.scp.gapIndex s
  | 5 => ((selectedSubBank s).base ++ (selectedSubBank s).size, s)
  | 6 =>
    let e := readTlb s (selectedSlot s)
    (if s.scp.tlbIndex.getLsbD 0 then e.ppn ++ 0#12 else e.vword, s)
  | 7 => (zext s.scp.tlbIndex, s)
  | 8 =>
    let b := selectedSubBank s
    (0#25 ++ s.scp.subBankIndex ++ BitVec.ofBool b.valid ++ BitVec.ofBool b.ar ++ b.cc, s)
  | 9 => (s.scp.memoryBank, s)
  | 12 => (s.scp.vectorBase, s)
  | 13 => (s.spr.usp, s)
  | 15 => (statusWord s, s)
  | _ => draw s

end Sys2Proof.Machine
end

