-- ==== Sys2Proof/Machine/Coproc.lean ====
section
/-! DEFINITION. Coprocessor instructions (44_coprocessor.md). -/

namespace Sys2Proof.Machine

/-! ### Shared operations -/

/-- Coprocessor n, n = 1..3. -/
def coproc (s : State) (n : BitVec 2) : Coproc :=
  match n.toNat with
  | 1 => s.cp1
  | 2 => s.cp2
  | _ => s.cp3

/-- What coprocessor n holds, replaced. -/
def withHeld (n : BitVec 2) (h : CoprocRegs) (s : State) : State :=
  match n.toNat with
  | 1 => { s with cp1 := { s.cp1 with held := h } }
  | 2 => { s with cp2 := { s.cp2 with held := h } }
  | _ => { s with cp3 := { s.cp3 with held := h } }

/-- The vector offset of coprocessor n: 0x20 + 4n (R422). -/
def coprocVector (n : BitVec 2) : Word := 0x20 + 4 * zext n

/-- What every instruction of the family does first (R421, R422): coprocessor 0 in user mode is a
privilege violation; an absent coprocessor, or a supervisor-only one in user mode, raises its own
exception. -/
def coprocAccess (n : BitVec 2) (onSystem : State → Outcome) (onAttached : CoprocRegs → State → Outcome)
    (s : State) : Outcome :=
  if n = 0 then (if isUser s then privilegeViolation s else onSystem s)
  else if !(coproc s n).present || (isUser s && (coproc s n).supervisorOnly) then
    takeFault (coprocVector n) s
  else onAttached (coproc s n).held s

/-- A register of an attached coprocessor. -/
def heldReg (h : CoprocRegs) (r : BitVec 4) : Word := h.regs[r.toNat]'r.isLt

/-- A register of an attached coprocessor, replaced. -/
def setHeldReg (h : CoprocRegs) (r : BitVec 4) (v : Word) : CoprocRegs :=
  { h with regs := h.regs.set r.toNat v r.isLt }

/-- A word from memory into a coprocessor register (R429). -/
def coprocLoad (n : BitVec 2) (r : BitVec 4) (base : State → Word) (s : State) : Outcome :=
  coprocAccess n (fun _ => .refused .cp0Transfer)
    (fun h s => conclude (memRead .word (base s + erImm s) s) fun v s =>
      .next (retire (withHeld n (setHeldReg h r v) s))) s

/-- A coprocessor register to memory (R430). -/
def coprocStore (n : BitVec 2) (r : BitVec 4) (base : State → Word) (s : State) : Outcome :=
  coprocAccess n (fun _ => .refused .cp0Transfer)
    (fun h s => conclude (memWrite .word (base s + erImm s) (heldReg h r) s) fun _ s =>
      .next (retire s)) s

/-! ### The instructions -/

/-- CPCMD CPNO, cpcmd (R423). -/
def execCpcmd (cpno : BitVec 2) (cmd : BitVec 6) (s : State) : Outcome :=
  coprocAccess cpno (fun _ => .refused .cp0Command)
    (fun h s => .next (retire (withHeld cpno (Config.cpCommand cpno cmd h) s))) s

/-- GETC CPNO, bit_position (R427). -/
def execGetc (cpno : BitVec 2) (pos : BitVec 4) (s : State) : Outcome :=
  coprocAccess cpno (fun _ => .refused .cp0Command)
    (fun h s => .next (retire { s with sr := { s.sr with z := !h.status.getLsbD pos.toNat } })) s

/-- EXEC CPNO, bit_position (R428): the exception of a set status bit saves `next`. -/
def execExecCp (cpno : BitVec 2) (pos : BitVec 4) (s : State) : Outcome :=
  coprocAccess cpno (fun _ => .refused .cp0Command)
    (fun h s =>
      let s' := { s with sr := { s.sr with z := !h.status.getLsbD pos.toNat } }
      if h.status.getLsbD pos.toNat then takeTrap (coprocVector cpno) s' else .next (retire s')) s

/-- MVTC CPNO, cpdst (R425): from general register 0. -/
def execMvtc (cpno : BitVec 2) (reg : BitVec 4) (s : State) : Outcome :=
  coprocAccess cpno (fun s => .next (retire (scprWrite reg (readReg s 0) s)))
    (fun h s => .next (retire (withHeld cpno (setHeldReg h reg (readReg s 0)) s))) s

/-- MVFC CPNO, cpsrc (R426): to general register 0. -/
def execMvfc (cpno : BitVec 2) (reg : BitVec 4) (s : State) : Outcome :=
  coprocAccess cpno
    (fun s => .next (retire (writeReg (scprRead reg s).2 0 (scprRead reg s).1)))
    (fun h s => .next (retire (writeReg s 0 (heldReg h reg)))) s

/-- LDC CPNO, (SP, imm), cpdst (R429). -/
def execLdcSp (cpno : BitVec 2) (reg : BitVec 4) (s : State) : Outcome := coprocLoad cpno reg readSp s

/-- LDC CPNO, (idx, imm), cpdst (R429): the index register is x[1]. -/
def execLdcIdx (cpno : BitVec 2) (reg : BitVec 4) (s : State) : Outcome :=
  coprocLoad cpno reg (fun s => readReg s 1) s

/-- STC CPNO, cpsrc, (SP, imm) (R430). -/
def execStcSp (cpno : BitVec 2) (reg : BitVec 4) (s : State) : Outcome := coprocStore cpno reg readSp s

/-- STC CPNO, cpsrc, (idx, imm) (R430). -/
def execStcIdx (cpno : BitVec 2) (reg : BitVec 4) (s : State) : Outcome :=
  coprocStore cpno reg (fun s => readReg s 1) s

end Sys2Proof.Machine
end

