-- ==== Sys2Proof/Machine/Dsp.lean ====
section
/-! DEFINITION. The DSP option (45_dsp.md). Each result function `DspFn` is a parameter (R441): the spec's
default (its decision D51, log 13) or a supplied function; MACB, MACS, MSOPB, MSOPS and MRS, which have no
default, are open functions of `Config` (log 12). -/

namespace Sys2Proof.Machine

/-! ### Shared operations -/

/-- R440: with `DSP_EXT` false the instruction `i` is unimplemented, with no other effect. -/
def withDsp (i : Instr) (run : State → Outcome) (s : State) : Outcome :=
  if s.cfg.dspExt then run s else unimplementedInstruction (encode i) s

/-- R442: the end of a DSP instruction, C, Z, S and V unspecified. -/
def finishDsp (s : State) : Outcome := .next (retire (drawFlags s))

/-- A result into a register. -/
def dspInto (dst : Reg) (r : Word) (s : State) : Outcome := finishDsp (writeReg s dst r)

/-- `DspFn.<op>(a, b)` (R441): supplied, or else the default of the instruction's rule. -/
def dspFn (op : DspOp) (default : Word → Word → Word) (a b : Word) (s : State) : Word :=
  if op ∈ s.cfg.dspSupplied then Config.dspFn op a b else default a b

/-- A two-operand instruction whose result replaces `dst`. -/
def dspBinary (op : DspOp) (default : Word → Word → Word) (dst src : Reg) (s : State) : Outcome :=
  dspInto dst (dspFn op default (readReg s dst) (srcImm s src) s) s

/-- Byte lane `B(v, i)` (R443). -/
def byteLane (v : Word) (i : Nat) : Byte := v.extractLsb' (8 * i) 8

/-- Short lane `H(v, i)` (R443). -/
def shortLane (v : Word) (i : Nat) : Half := v.extractLsb' (16 * i) 16

/-- A function of two bytes, lane by lane. -/
def mapBytes (f : Byte → Byte → Byte) (a b : Word) : Word :=
  f (byteLane a 3) (byteLane b 3) ++ f (byteLane a 2) (byteLane b 2)
    ++ f (byteLane a 1) (byteLane b 1) ++ f (byteLane a 0) (byteLane b 0)

/-- A function of two shorts, lane by lane. -/
def mapShorts (f : Half → Half → Half) (a b : Word) : Word :=
  f (shortLane a 1) (shortLane b 1) ++ f (shortLane a 0) (shortLane b 0)

/-- `sat(x, lo, hi)` (R443). -/
def sat (x lo hi : Int) : Int := if x < lo then lo else if hi < x then hi else x

/-- A signed saturating sum of `n` bits. -/
def satAddSigned {n : Nat} (a b : BitVec n) : BitVec n :=
  BitVec.ofInt n (sat (a.toInt + b.toInt) (-(2 ^ (n - 1))) (2 ^ (n - 1) - 1))

/-- An unsigned saturating sum of `n` bits. -/
def satAddUnsigned {n : Nat} (a b : BitVec n) : BitVec n :=
  BitVec.ofInt n (sat (a.toNat + b.toNat) 0 (2 ^ n - 1))

/-- An unsigned truncating average of `n` bits (R473). -/
def average {n : Nat} (a b : BitVec n) : BitVec n := BitVec.ofNat n ((a.toNat + b.toNat) / 2)

/-- A rotate to the right by `n` (R475). -/
def rotateRight (v n : Word) : Word := (v >>> n.toNat) ||| (v <<< (32 - n.toNat))

/-- A rotate to the left by `n` (R476). -/
def rotateLeft (v n : Word) : Word := (v <<< n.toNat) ||| (v >>> (32 - n.toNat))

/-- The even source register of a group, A (section 4). -/
def groupA (s : State) (g : BitVec 3) : Word := readReg s (evenReg g)

/-- The odd source register of a group, B. -/
def groupB (s : State) (g : BitVec 3) : Word := readReg s (oddReg g)

/-- Short lane `n` of each source register side by side, the even register's first. -/
def unpackShorts (n : Nat) (a b : Word) : Word := shortLane a n ++ shortLane b n

/-- Byte lane `n` of each source register side by side, the even register's first. -/
def unpackBytes (n : Nat) (a b : Word) : Word := zext (byteLane a n ++ byteLane b n)

/-- `DspFn` of an unpack, of the registers of a group. -/
def unpackFn (op : DspOp) (default : Word → Word → Word) (g : BitVec 3) (s : State) : Word :=
  dspFn op default (groupA s g) (groupB s g) s

/-- A byte unpack to the low half; the high half stays. -/
def unpackLow (op : DspOp) (n : Nat) (g : BitVec 3) (dst : Reg) (s : State) : Outcome :=
  dspInto dst (shortLane (readReg s dst) 1 ++ shortLane (unpackFn op (unpackBytes n) g s) 0) s

/-- A byte unpack to the high half; the low half stays. -/
def unpackHigh (op : DspOp) (n : Nat) (g : BitVec 3) (dst : Reg) (s : State) : Outcome :=
  dspInto dst (shortLane (unpackFn op (unpackBytes n) g s) 0 ++ shortLane (readReg s dst) 0) s

/-- A LERI before MRS, ROR or ROL is outside the spec (30_encoding.md R214). -/
def unprefixed (run : State → Outcome) (s : State) : Outcome :=
  if s.sr.e then .fault .prefixedRotate else run s

/-- A 96-bit result into MRE:MH:ML (R450). -/
def writeAccumulators (r : BitVec 96) (s : State) : State :=
  { s with spr := { s.spr with
      mre := r.extractLsb' 64 32, mh := r.extractLsb' 32 32, ml := r.extractLsb' 0 32 } }

/-! ### SIMD multiply-accumulate -/

/-- MACB src1/imm, src2 (R450): the accumulators become `DspFn.MACB`, which is open. -/
def execMacb (src2 : Reg) (src1 : Reg) (s : State) : Outcome :=
  withDsp (.macb src2 src1) (fun s => finishDsp (writeAccumulators
    (Config.macb (readReg s src2) (srcImm s src1) s.spr.mre s.spr.mh s.spr.ml) s)) s

/-- MACS src1/imm, src2 (R451). -/
def execMacs (src2 : Reg) (src1 : Reg) (s : State) : Outcome :=
  withDsp (.macs src2 src1) (fun s => finishDsp (writeAccumulators
    (Config.macs (readReg s src2) (srcImm s src1) s.spr.mre s.spr.mh s.spr.ml) s)) s

/-- MSOPB src1/imm, src2 (R452): 48 bits MH[15:0]:ML; MH[31:16] and MRE are unspecified. -/
def execMsopb (src2 : Reg) (src1 : Reg) (s : State) : Outcome :=
  withDsp (.msopb src2 src1) (fun s =>
    let r := Config.msopb (readReg s src2) (srcImm s src1) s.spr.mre s.spr.mh s.spr.ml
    let high := draw s
    let mre := draw high.2
    finishDsp { mre.2 with spr := { mre.2.spr with
      mre := mre.1
      mh := high.1.extractLsb' 16 16 ++ r.extractLsb' 32 16
      ml := r.extractLsb' 0 32 } }) s

/-- MSOPS src1/imm, src2 (R453): 32 bits ML; MH and MRE are unspecified. -/
def execMsops (src2 : Reg) (src1 : Reg) (s : State) : Outcome :=
  withDsp (.msops src2 src1) (fun s =>
    let r := Config.msops (readReg s src2) (srcImm s src1) s.spr.mre s.spr.mh s.spr.ml
    let mh := draw s
    let mre := draw mh.2
    finishDsp { mre.2 with spr := { mre.2.spr with mre := mre.1, mh := mh.1, ml := r } }) s

/-! ### Saturating add -/

/-- SADDB src/imm, dst (R455). -/
def execSaddb (dst : Reg) (src : Reg) (s : State) : Outcome :=
  withDsp (.saddb dst src) (dspBinary .saddb (mapBytes satAddSigned) dst src) s

/-- SADDS src/imm, dst (R456). -/
def execSadds (dst : Reg) (src : Reg) (s : State) : Outcome :=
  withDsp (.sadds dst src) (dspBinary .sadds (mapShorts satAddSigned) dst src) s

/-- SADUB src/imm, dst (R457). -/
def execSadub (dst : Reg) (src : Reg) (s : State) : Outcome :=
  withDsp (.sadub dst src) (dspBinary .sadub (mapBytes satAddUnsigned) dst src) s

/-- SADUS src/imm, dst (R458). -/
def execSadus (dst : Reg) (src : Reg) (s : State) : Outcome :=
  withDsp (.sadus dst src) (dspBinary .sadus (mapShorts satAddUnsigned) dst src) s

/-- SADD src/imm, dst (R459). -/
def execSadd (dst : Reg) (src : Reg) (s : State) : Outcome :=
  withDsp (.sadd dst src) (dspBinary .sadd satAddSigned dst src) s

/-! ### Unpack -/

/-- UPKLS src_grp, dst (R460). -/
def execUpkls (grp : BitVec 3) (dst : Reg) (s : State) : Outcome :=
  withDsp (.upkls grp dst) (fun s => dspInto dst (unpackFn .upkls (unpackShorts 0) grp s) s) s

/-- UPKHS src_grp, dst (R461). -/
def execUpkhs (grp : BitVec 3) (dst : Reg) (s : State) : Outcome :=
  withDsp (.upkhs grp dst) (fun s => dspInto dst (unpackFn .upkhs (unpackShorts 1) grp s) s) s

/-- UPK0LB src_grp, dst (R462). -/
def execUpk0lb (grp : BitVec 3) (dst : Reg) (s : State) : Outcome :=
  withDsp (.upk0lb grp dst) (unpackLow .upk0lb 0 grp dst) s

/-- UPK0HB src_grp, dst (R463). -/
def execUpk0hb (grp : BitVec 3) (dst : Reg) (s : State) : Outcome :=
  withDsp (.upk0hb grp dst) (unpackHigh .upk0hb 0 grp dst) s

/-- UPK1LB src_grp, dst (R464). -/
def execUpk1lb (grp : BitVec 3) (dst : Reg) (s : State) : Outcome :=
  withDsp (.upk1lb grp dst) (unpackLow .upk1lb 1 grp dst) s

/-- UPK1HB src_grp, dst (R465). -/
def execUpk1hb (grp : BitVec 3) (dst : Reg) (s : State) : Outcome :=
  withDsp (.upk1hb grp dst) (unpackHigh .upk1hb 1 grp dst) s

/-- UPK2LB src_grp, dst (R466). -/
def execUpk2lb (grp : BitVec 3) (dst : Reg) (s : State) : Outcome :=
  withDsp (.upk2lb grp dst) (unpackLow .upk2lb 2 grp dst) s

/-- UPK2HB src_grp, dst (R467). -/
def execUpk2hb (grp : BitVec 3) (dst : Reg) (s : State) : Outcome :=
  withDsp (.upk2hb grp dst) (unpackHigh .upk2hb 2 grp dst) s

/-- UPK3LB src_grp, dst (R468). -/
def execUpk3lb (grp : BitVec 3) (dst : Reg) (s : State) : Outcome :=
  withDsp (.upk3lb grp dst) (unpackLow .upk3lb 3 grp dst) s

/-- UPK3HB src_grp, dst (R469). -/
def execUpk3hb (grp : BitVec 3) (dst : Reg) (s : State) : Outcome :=
  withDsp (.upk3hb grp dst) (unpackHigh .upk3hb 3 grp dst) s

/-! ### MRE moves, which change no flag -/

/-- MTMRE src (R471). -/
def execMtmre (src : Reg) (s : State) : Outcome :=
  withDsp (.mtmre src) (fun s =>
    .next (retire { s with spr := { s.spr with mre := readReg s src } })) s

/-- MFMRE dst (R472). -/
def execMfmre (dst : Reg) (s : State) : Outcome :=
  withDsp (.mfmre dst) (fun s => .next (retire (writeReg s dst s.spr.mre))) s

/-! ### Miscellaneous -/

/-- MRS imm, dst (R470): `DspFn.MRS`, which is open. -/
def execMrs (imm : BitVec 3) (dst : Reg) (s : State) : Outcome :=
  withDsp (.mrs imm dst) (unprefixed fun s =>
    dspInto dst (Config.mrs imm s.spr.mh s.spr.ml (readReg s dst)) s) s

/-- AVGB src/imm, dst (R473). -/
def execAvgb (dst : BitVec 3) (src : Reg) (s : State) : Outcome :=
  withDsp (.avgb dst src) (dspBinary .avgb (mapBytes average) (lowReg dst) src) s

/-- AVGS src/imm, dst (R474). -/
def execAvgs (dst : BitVec 3) (src : Reg) (s : State) : Outcome :=
  withDsp (.avgs dst src) (dspBinary .avgs (mapShorts average) (lowReg dst) src) s

/-- ROR imm, dst (R475). -/
def execRor (imm : BitVec 3) (dst : Reg) (s : State) : Outcome :=
  withDsp (.ror imm dst) (unprefixed fun s =>
    dspInto dst (dspFn .ror rotateRight (readReg s dst) (zext imm) s) s) s

/-- ROL imm, dst (R476). -/
def execRol (imm : BitVec 3) (dst : Reg) (s : State) : Outcome :=
  withDsp (.rol imm dst) (unprefixed fun s =>
    dspInto dst (dspFn .rol rotateLeft (readReg s dst) (zext imm) s) s) s

/-- MIN src/imm, dst (R477). -/
def execMin (dst : BitVec 3) (src : Reg) (s : State) : Outcome :=
  withDsp (.min dst src) (dspBinary .min (fun a b => if b.toInt < a.toInt then b else a) (lowReg dst) src) s

/-- MAX src/imm, dst (R478). -/
def execMax (dst : BitVec 3) (src : Reg) (s : State) : Outcome :=
  withDsp (.max dst src) (dspBinary .max (fun a b => if a.toInt < b.toInt then b else a) (lowReg dst) src) s

/-- ABS dst (R479); of 0x80000000 the default's result is unspecified. -/
def execAbs (dst : Reg) (s : State) : Outcome :=
  withDsp (.abs dst) (fun s =>
    if readReg s dst = 0x80000000 ∧ .abs ∉ s.cfg.dspSupplied then dspInto dst (draw s).1 (draw s).2
    else dspInto dst (dspFn .abs (fun v _ => if v.msb then 0 - v else v) (readReg s dst) 0 s) s) s

end Sys2Proof.Machine
end

