-- ==== Sys2Proof/Machine/LoadStore.lean ====
section
/-! DEFINITION. Memory access instructions: index form, SP form and auto-increment (40_load_store.md
sections 1 to 4). -/

namespace Sys2Proof.Machine

/-! ### Shared operations -/

/-- A load of `size` at `ea` into `dst`, extended by `ext` (R271). -/
def loadReg (size : AccessSize) (ext : Word → Word) (ea : Word) (dst : Reg) (s : State) : Outcome :=
  conclude (memRead size ea s) fun v s => .next (retire (writeReg s dst (ext v)))

/-- A store of `size` at `ea` (R271). -/
def storeReg (size : AccessSize) (ea v : Word) (s : State) : Outcome :=
  conclude (memWrite size ea v s) fun _ s => .next (retire s)

/-- `sext_8` of a loaded byte. -/
def sextByte (v : Word) : Word := sext (v.extractLsb' 0 8)

/-- `sext_16` of a loaded halfword. -/
def sextHalf (v : Word) : Word := sext (v.extractLsb' 0 16)

/-! ### Index form -/

/-- LD (idx, off), dst (R250). -/
def execLdIdx (dst : Reg) (off : BitVec 4) (idx : Reg) (s : State) : Outcome :=
  loadReg .word id (indexAddr s idx off .word) dst s

/-- ST src, (idx, off) (R251). -/
def execStIdx (src : Reg) (off : BitVec 4) (idx : Reg) (s : State) : Outcome :=
  storeReg .word (indexAddr s idx off .word) (readReg s src) s

/-- LDB (idx, off), dst (R252). -/
def execLdbIdx (dst : Reg) (off : BitVec 3) (idx : Reg) (s : State) : Outcome :=
  loadReg .byte sextByte (indexAddr s idx off .byte) dst s

/-- LDS (idx, off), dst (R253). -/
def execLdsIdx (dst : Reg) (off : BitVec 3) (idx : Reg) (s : State) : Outcome :=
  loadReg .half sextHalf (indexAddr s idx off .half) dst s

/-- STB src, (idx, off) (R254). -/
def execStbIdx (src : Reg) (off : BitVec 3) (idx : Reg) (s : State) : Outcome :=
  storeReg .byte (indexAddr s idx off .byte) (readReg s src) s

/-- STS src, (idx, off) (R255). -/
def execStsIdx (src : Reg) (off : BitVec 3) (idx : Reg) (s : State) : Outcome :=
  storeReg .half (indexAddr s idx off .half) (readReg s src) s

/-- LDBU (idx, off), dst (R256). -/
def execLdbuIdx (dst : Reg) (off : BitVec 3) (idx : Reg) (s : State) : Outcome :=
  loadReg .byte id (indexAddr s idx off .byte) dst s

/-- LDSU (idx, off), dst (R257). -/
def execLdsuIdx (dst : Reg) (off : BitVec 3) (idx : Reg) (s : State) : Outcome :=
  loadReg .half id (indexAddr s idx off .half) dst s

/-! ### SP form -/

/-- LD (SP, off), dst (R258). -/
def execLdSp (dst : Reg) (off : BitVec 7) (s : State) : Outcome :=
  loadReg .word id (spAddr s off .word) dst s

/-- ST src, (SP, off) (R259). -/
def execStSp (src : Reg) (off : BitVec 7) (s : State) : Outcome :=
  storeReg .word (spAddr s off .word) (readReg s src) s

/-- LDB (SP, imm), dst (R260). -/
def execLdbSp (off : BitVec 3) (dst : Reg) (s : State) : Outcome :=
  loadReg .byte sextByte (spAddr s off .byte) dst s

/-- LDS (SP, imm), dst (R261). -/
def execLdsSp (off : BitVec 3) (dst : Reg) (s : State) : Outcome :=
  loadReg .half sextHalf (spAddr s off .half) dst s

/-- LDBU (SP, imm), dst (R262). -/
def execLdbuSp (off : BitVec 3) (dst : Reg) (s : State) : Outcome :=
  loadReg .byte id (spAddr s off .byte) dst s

/-- LDSU (SP, imm), dst (R263). -/
def execLdsuSp (off : BitVec 3) (dst : Reg) (s : State) : Outcome :=
  loadReg .half id (spAddr s off .half) dst s

/-- STB src, (SP, imm) (R264). -/
def execStbSp (off : BitVec 3) (src : Reg) (s : State) : Outcome :=
  storeReg .byte (spAddr s off .byte) (readReg s src) s

/-- STS src, (SP, imm) (R265). -/
def execStsSp (off : BitVec 3) (src : Reg) (s : State) : Outcome :=
  storeReg .half (spAddr s off .half) (readReg s src) s

/-! ### Auto-increment -/

/-- CR[c]. -/
def counterReg (s : State) (c : BitVec 1) : Word := if c = 0 then s.spr.cr0 else s.spr.cr1

/-- A write of CR[c]. -/
def withCounter (c : BitVec 1) (v : Word) (s : State) : State :=
  if c = 0 then { s with spr := { s.spr with cr0 := v } } else { s with spr := { s.spr with cr1 := v } }

/-- The counter field of a counter register replaced: "only cnt changes" (R282). -/
def setCount (cr : Word) (count : BitVec 12) : Word := cr.extractLsb' 12 20 ++ count

/-- R282, modes 0100 and 0101: the counter bits under the mask step, the others stay. -/
def wrapCount (mask count : BitVec 12) : BitVec 12 := (count &&& ~~~mask) ||| ((count + 4) &&& mask)

/-- The default `CRStep(cr)` (R282): the new counter register and the Z value, if the mode writes it.
Bit-reverse, the undefined modes and increments other than 0000 have an open result (DESIGN CHOICE,
log 11). Mode 0101 writes Z, as R282's table and 10_state.md R26 say and R280 does not (DESIGN CHOICE,
log 40). -/
def defaultCounterStep (cr : Word) : Word × Option Bool :=
  let count := cr.extractLsb' 0 12
  let mask := cr.extractLsb' 12 12
  if cr.extractLsb' 24 4 = 0 ∧ cr.extractLsb' 28 4 = 0b0000 then (setCount cr (count + 4), none)
  else if cr.extractLsb' 24 4 = 0 ∧ cr.extractLsb' 28 4 = 0b0001 then
    (setCount cr (count + 4), some (count + 4 == mask))
  else if cr.extractLsb' 24 4 = 0 ∧ cr.extractLsb' 28 4 = 0b0100 then
    (setCount cr (wrapCount mask count), none)
  else if cr.extractLsb' 24 4 = 0 ∧ cr.extractLsb' 28 4 = 0b0101 then
    (setCount cr (wrapCount mask count), some (wrapCount mask count &&& mask == 0))
  else (setCount cr (Config.openCounterStep cr).1, (Config.openCounterStep cr).2)

/-- `CRStep(cr)` (R280, R282), a parameter. -/
def counterStep (rule : CrStepRule) (cr : Word) : Word × Option Bool :=
  match rule with
  | .default => defaultCounterStep cr
  | .supplied => Config.crStep cr

/-- The address LDAU and STAU use: `x[IdxMap(j)] + zext(CR[c][11:0])` (R280). -/
def counterAddr (j : BitVec 2) (c : BitVec 1) (s : State) : Word :=
  readReg s (s.cfg.idxMap[j.toNat]'j.isLt) + zext ((counterReg s c).extractLsb' 0 12)

/-- The counter stepped, with Z where the mode writes it. -/
def stepCounter (c : BitVec 1) (s : State) : State :=
  let r := counterStep s.cfg.crStep (counterReg s c)
  match r.2 with
  | some z => { withCounter c r.1 s with sr := { s.sr with z := z } }
  | none => withCounter c r.1 s

/-- LDAU CRNO, idx, dst (R280). -/
def execLdau (idx : BitVec 2) (cr : BitVec 1) (dst : Reg) (s : State) : Outcome :=
  conclude (memRead .word (counterAddr idx cr s) s) fun v s =>
    .next (retire (stepCounter cr (writeReg s dst v)))

/-- STAU CRNO, src, idx (R281). -/
def execStau (idx : BitVec 2) (cr : BitVec 1) (src : Reg) (s : State) : Outcome :=
  conclude (memWrite .word (counterAddr idx cr s) (readReg s src) s) fun _ s =>
    .next (retire (stepCounter cr s))

end Sys2Proof.Machine
end

