-- ==== Sys2Proof/Machine/Move.lean ====
section
/-! DEFINITION. Immediate loading, the LEA family, and moves to and from the special registers
(41_move.md). -/

namespace Sys2Proof.Machine

/-- LERI imm (R300, 30_encoding.md R209): ER extended, E set, and the unit goes on. -/
def execLeri (imm : BitVec 14) (s : State) : Outcome :=
  let er := if s.sr.e then (s.spr.er <<< 14) ||| zext imm else sext imm
  .next { s with leris := s.leris + 1, sr := { s.sr with e := true }, spr := { s.spr with er := er } }

/-- LDI imm, dst (R301). -/
def execLdi (dst : Reg) (imm : BitVec 8) (s : State) : Outcome :=
  .next (retire (writeReg s dst (ldiImm s imm)))

/-- LEA (SP, imm), SP (R302). -/
def execLeaAspo (off : BitVec 8) (s : State) : Outcome :=
  .next (retire (writeSp s (readSp s + aspoImm s off)))

/-- LEA (idx, imm), dst (R303). -/
def execLea (dst : Reg) (idx : Reg) (s : State) : Outcome :=
  .next (retire (writeReg s dst (readReg s idx + erImm s)))

/-- LSEA (idx, imm), SP (R304). -/
def execLsea (idx : Reg) (s : State) : Outcome :=
  .next (retire (writeSp s (readReg s idx + erImm s)))

/-- LESA (SP, imm), dst (R305). -/
def execLesa (dst : Reg) (s : State) : Outcome :=
  .next (retire (writeReg s dst (readSp s + erImm s)))

/-- MTML src (R310). -/
def execMtml (src : Reg) (s : State) : Outcome :=
  .next (retire { s with spr := { s.spr with ml := readReg s src } })

/-- MTMH src (R311). -/
def execMtmh (src : Reg) (s : State) : Outcome :=
  .next (retire { s with spr := { s.spr with mh := readReg s src } })

/-- MFML dst (R312). -/
def execMfml (dst : Reg) (s : State) : Outcome := .next (retire (writeReg s dst s.spr.ml))

/-- MFMH dst (R313). -/
def execMfmh (dst : Reg) (s : State) : Outcome := .next (retire (writeReg s dst s.spr.mh))

/-- MTCR0 src (R314). -/
def execMtcr0 (src : Reg) (s : State) : Outcome :=
  .next (retire { s with spr := { s.spr with cr0 := readReg s src } })

/-- MTCR1 src (R315). -/
def execMtcr1 (src : Reg) (s : State) : Outcome :=
  .next (retire { s with spr := { s.spr with cr1 := readReg s src } })

/-- MFCR0 dst (R316). -/
def execMfcr0 (dst : Reg) (s : State) : Outcome := .next (retire (writeReg s dst s.spr.cr0))

/-- MFCR1 dst (R317). -/
def execMfcr1 (dst : Reg) (s : State) : Outcome := .next (retire (writeReg s dst s.spr.cr1))

end Sys2Proof.Machine
end

