-- ==== Sys2Proof/Machine/Stack.lean ====
section
/-! DEFINITION. PUSH and POP (40_load_store.md R288, R290). -/

namespace Sys2Proof.Machine

/-- The bits set in a list, lowest first. -/
def listBits (list : BitVec 8) : List (BitVec 3) :=
  [0#3, 1#3, 2#3, 3#3, 4#3, 5#3, 6#3, 7#3].filter fun b => list.getLsbD b.toNat

/-- Words stored downward from `top`, the first at `top - 4` (R288: "writes proceed from high address to
low"). A raise leaves the words above it stored. -/
def pushWords (top : Word) : List Word → State → Acc Unit
  | [], s => .ok () s
  | v :: vs, s => andThen (memWrite .word (top - 4) v s) fun _ s => pushWords (top - 4) vs s

/-- Words read upward from `bottom`. -/
def popWords (bottom : Word) : Nat → State → Acc (List Word)
  | 0, s => .ok [] s
  | n + 1, s =>
    andThen (memRead .word bottom s) fun v s =>
    andThen (popWords (bottom + 4) n s) fun vs s => .ok (v :: vs) s

/-- `4 * n`. -/
def stackBytes (n : Nat) : Word := 4 * BitVec.ofNat 32 n

/-- PUSH of the values `value b` for the bits `b` of the list, highest bit first (R288). -/
def pushList (list : BitVec 8) (value : BitVec 3 → Word) (s : State) : Outcome :=
  conclude (pushWords (readSp s) ((listBits list).reverse.map value) s) fun _ s' =>
    .next (retire (writeSp s' (readSp s - stackBytes (listBits list).length)))

/-- POP of the words for the bits of the list, lowest bit first, and what is done with them: SP of the
mode in force when the POP began is past them first (R290). -/
def popList (list : BitVec 8) (assign : List (BitVec 3 × Word) → State → State) (s : State) : Outcome :=
  conclude (popWords (readSp s) (listBits list).length s) fun ws s' =>
    .next (assign ((listBits list).zip ws)
      (writeSp s' (readSp s + stackBytes (listBits list).length)))

/-- Bit b of a R7..R0 list is Rb. -/
def lowListReg (b : BitVec 3) : Reg := 0#1 ++ b

/-- Bit b of a R15..R8 list is R(8+b). -/
def highListReg (b : BitVec 3) : Reg := 1#1 ++ b

/-- `value(b)` of the special list (R288): SR with E = 0, PC as `next`, ER as the word 0. CR0 and CR1 are
in the list as R288 and 10_state.md R39 say, against 70_reset_and_hazards.md R586 (DEDUCED, log 41). -/
def specialValue (s : State) (b : BitVec 3) : Word :=
  match b.toNat with
  | 0 => s.spr.cr0
  | 1 => s.spr.cr1
  | 2 => s.spr.ml
  | 3 => s.spr.mh
  | 4 => 0
  | 5 => s.spr.lr
  | 6 => nextAddr s
  | _ => savedSr s

/-- General registers assigned from a POP. -/
def assignRegs (reg : BitVec 3 → Reg) (ws : List (BitVec 3 × Word)) (s : State) : State :=
  ws.foldl (fun s w => writeReg s (reg w.1) w.2) s

/-- `assign` of the special list for every register but PC and SR; the word for ER is discarded. CR0 and
CR1 are loaded as R290 says (DEDUCED, log 41). -/
def assignSpecial (s : State) (w : BitVec 3 × Word) : State :=
  match w.1.toNat with
  | 0 => { s with spr := { s.spr with cr0 := w.2 } }
  | 1 => { s with spr := { s.spr with cr1 := w.2 } }
  | 2 => { s with spr := { s.spr with ml := w.2 } }
  | 3 => { s with spr := { s.spr with mh := w.2 } }
  | 5 => writeLr s w.2
  | _ => s

/-- PUSH list (R7..R0) (R288). -/
def execPushLo (list : BitVec 8) (s : State) : Outcome :=
  pushList list (fun b => readReg s (lowListReg b)) s

/-- PUSH list (R15..R8) (R288). -/
def execPushHi (list : BitVec 8) (s : State) : Outcome :=
  pushList list (fun b => readReg s (highListReg b)) s

/-- PUSH list (SR,PC,LR,ER,MH,ML,CR1,CR0) (R288). -/
def execPushSpec (list : BitVec 8) (s : State) : Outcome := pushList list (specialValue s) s

/-- POP list (R7..R0) (R290). -/
def execPopLo (list : BitVec 8) (s : State) : Outcome :=
  popList list (fun ws s => retire (assignRegs lowListReg ws s)) s

/-- POP list (R15..R8) (R290). -/
def execPopHi (list : BitVec 8) (s : State) : Outcome :=
  popList list (fun ws s => retire (assignRegs highListReg ws s)) s

/-- POP of the special list once it is allowed. -/
def popSpecial (list : BitVec 8) (s : State) : Outcome :=
  popList list (fun ws s' =>
    exceptionReturn (isUser s) (ws.lookup 6) (ws.lookup 7) (ws.foldl assignSpecial s')) s

/-- POP list (SR,PC,LR,ER,MH,ML,CR1,CR0) (R290); in user mode with SR in the list, `UserSysWrite`
(46_system.md R496). -/
def execPopSpec (list : BitVec 8) (s : State) : Outcome :=
  if isUser s && list.getLsbD 7 then userSysWrite (popSpecial list) s else popSpecial list s

end Sys2Proof.Machine
end

