-- ==== Sys2Proof/Machine/System.lean ====
section
/-! DEFINITION. System instructions and the reserved halfwords (46_system.md, 30_encoding.md R206). -/

namespace Sys2Proof.Machine

/-- NOP (R491): NOP 1 latches the backup registers, every other n changes nothing but pc. -/
def execNop (n : BitVec 4) (s : State) : Outcome :=
  if n = 1 then .next (retire (latchBackup (encode (.nop n)) s)) else .next (retire s)

/-- SWI exception_no (R492): a trap at vector offset 0x40 + 4n. -/
def execSwi (n : BitVec 4) (s : State) : Outcome := takeTrap (0x40 + 4 * zext n) s

/-- STEP (R493): the debug unit is not described. -/
def execStep (blank : BitVec 4) (_s : State) : Outcome :=
  if blank = 0 then .refused .debugUnit else .fault .blankBits

/-- BRKPT (R494): the debug unit is not described. -/
def execBrkpt (blank : BitVec 4) (_s : State) : Outcome :=
  if blank = 0 then .refused .debugUnit else .fault .blankBits

/-- HALT halt_level (R495): halted, and the special cycle to the PMU; in user mode `UserSysWrite`, whose
`ignore` is a NOP (R496). -/
def execHalt (n : BitVec 4) (s : State) : Outcome :=
  if isUser s then userSysWrite (fun s => .next (retire s)) s
  else .next (retire { s with halted := true, events := s.events ++ [.pmuHalt n] })

/-- SET or CLR of one bit (R497, R498): a system bit in user mode is `UserSysWrite`, whose `ignore`
leaves it as it was. -/
def changeSrBit (pos : BitVec 4) (b : Bool) (s : State) : Outcome :=
  let field := srFieldAt s.cfg.srLayout pos
  if isUser s && isSystemField field then userSysWrite (fun s => .next (retire s)) s
  else .next (retire { s with sr := s.sr.withField field b })

/-- SET position (R497). -/
def execSet (pos : BitVec 4) (s : State) : Outcome := changeSrBit pos true s

/-- CLR position (R498). -/
def execClr (pos : BitVec 4) (s : State) : Outcome := changeSrBit pos false s

/-- SYNC (R499): nothing but pc, and the point at which maintained code becomes visible to fetch
(20_memory.md R183); a non-zero blank nibble is outside the spec (30_encoding.md R215). -/
def execSync (blank : BitVec 4) (s : State) : Outcome :=
  if blank = 0 then .next (retire (syncStale s)) else .fault .blankBits

/-- 0xB780 to 0xB7FF. -/
def execReservedB780 (bits : BitVec 7) (s : State) : Outcome :=
  undefinedInstruction (encode (.reservedB780 bits)) s

/-- 0xE1B0 to 0xE1BF. -/
def execReservedE1B0 (bits : BitVec 4) (s : State) : Outcome :=
  undefinedInstruction (encode (.reservedE1B0 bits)) s

/-- Bits 15:10 = 1110 11 and 7:6 = 11. -/
def execReservedECC0 (cpno : BitVec 2) (bits : BitVec 6) (s : State) : Outcome :=
  undefinedInstruction (encode (.reservedECC0 cpno bits)) s

/-- 0xFB80 to 0xFBFF. -/
def execReservedFB80 (bits : BitVec 7) (s : State) : Outcome :=
  undefinedInstruction (encode (.reservedFB80 bits)) s

/-- 0xFB40 to 0xFB7F. -/
def execReservedFB40 (bits : BitVec 6) (s : State) : Outcome :=
  undefinedInstruction (encode (.reservedFB40 bits)) s

/-- 0xFB20 to 0xFB3F. -/
def execReservedFB20 (bits : BitVec 5) (s : State) : Outcome :=
  undefinedInstruction (encode (.reservedFB20 bits)) s

/-- 0xFB10 to 0xFB1F. -/
def execReservedFB10 (bits : BitVec 4) (s : State) : Outcome :=
  undefinedInstruction (encode (.reservedFB10 bits)) s

end Sys2Proof.Machine
end

