-- ==== Sys2Proof/Machine/Dispatch.lean ====
section
/-! DEFINITION. What executing one instruction does: the meaning of each constructor of `Instr`. -/

namespace Sys2Proof.Machine

def exec (i : Instr) (s : State) : Host.Outcome State Fault Refusal :=
  match i with
  | .ldIdx dst off idx => Sys2Proof.Machine.execLdIdx dst off idx s
  | .stIdx src off idx => Sys2Proof.Machine.execStIdx src off idx s
  | .ldbIdx dst off idx => Sys2Proof.Machine.execLdbIdx dst off idx s
  | .ldsIdx dst off idx => Sys2Proof.Machine.execLdsIdx dst off idx s
  | .stbIdx src off idx => Sys2Proof.Machine.execStbIdx src off idx s
  | .stsIdx src off idx => Sys2Proof.Machine.execStsIdx src off idx s
  | .leri imm => Sys2Proof.Machine.execLeri imm s
  | .ldbuIdx dst off idx => Sys2Proof.Machine.execLdbuIdx dst off idx s
  | .ldsuIdx dst off idx => Sys2Proof.Machine.execLdsuIdx dst off idx s
  | .ldSp dst off => Sys2Proof.Machine.execLdSp dst off s
  | .stSp src off => Sys2Proof.Machine.execStSp src off s
  | .ldi dst imm => Sys2Proof.Machine.execLdi dst imm s
  | .pushLo list => Sys2Proof.Machine.execPushLo list s
  | .pushHi list => Sys2Proof.Machine.execPushHi list s
  | .pushSpec list => Sys2Proof.Machine.execPushSpec list s
  | .popLo list => Sys2Proof.Machine.execPopLo list s
  | .popHi list => Sys2Proof.Machine.execPopHi list s
  | .popSpec list => Sys2Proof.Machine.execPopSpec list s
  | .leaAspo off => Sys2Proof.Machine.execLeaAspo off s
  | .mrs imm dst => Sys2Proof.Machine.execMrs imm dst s
  | .reservedB780 bits => Sys2Proof.Machine.execReservedB780 bits s
  | .add dst src => Sys2Proof.Machine.execAdd dst src s
  | .adc dst src => Sys2Proof.Machine.execAdc dst src s
  | .sub dst src => Sys2Proof.Machine.execSub dst src s
  | .sbc dst src => Sys2Proof.Machine.execSbc dst src s
  | .and dst src => Sys2Proof.Machine.execAnd dst src s
  | .or dst src => Sys2Proof.Machine.execOr dst src s
  | .xor dst src => Sys2Proof.Machine.execXor dst src s
  | .cmp dst src => Sys2Proof.Machine.execCmp dst src s
  | .asrImm dst sftamt => Sys2Proof.Machine.execAsrImm dst sftamt s
  | .lsrImm dst sftamt => Sys2Proof.Machine.execLsrImm dst sftamt s
  | .aslImm dst sftamt => Sys2Proof.Machine.execAslImm dst sftamt s
  | .sslImm dst sftamt => Sys2Proof.Machine.execSslImm dst sftamt s
  | .asrReg dst sftreg => Sys2Proof.Machine.execAsrReg dst sftreg s
  | .lsrReg dst sftreg => Sys2Proof.Machine.execLsrReg dst sftreg s
  | .aslReg dst sftreg => Sys2Proof.Machine.execAslReg dst sftreg s
  | .sslReg dst sftreg => Sys2Proof.Machine.execSslReg dst sftreg s
  | .addq dst imm => Sys2Proof.Machine.execAddq dst imm s
  | .cmpq src imm => Sys2Proof.Machine.execCmpq src imm s
  | .jnv off => Sys2Proof.Machine.execJnv off s
  | .jv off => Sys2Proof.Machine.execJv off s
  | .jp off => Sys2Proof.Machine.execJp off s
  | .jm off => Sys2Proof.Machine.execJm off s
  | .jnz off => Sys2Proof.Machine.execJnz off s
  | .jz off => Sys2Proof.Machine.execJz off s
  | .jnc off => Sys2Proof.Machine.execJnc off s
  | .jc off => Sys2Proof.Machine.execJc off s
  | .jgt off => Sys2Proof.Machine.execJgt off s
  | .jlt off => Sys2Proof.Machine.execJlt off s
  | .jge off => Sys2Proof.Machine.execJge off s
  | .jle off => Sys2Proof.Machine.execJle off s
  | .jhi off => Sys2Proof.Machine.execJhi off s
  | .jls off => Sys2Proof.Machine.execJls off s
  | .jmp off => Sys2Proof.Machine.execJmp off s
  | .jal off => Sys2Proof.Machine.execJal off s
  | .extb dst => Sys2Proof.Machine.execExtb dst s
  | .exts dst => Sys2Proof.Machine.execExts dst s
  | .mfmre dst => Sys2Proof.Machine.execMfmre dst s
  | .mtmre src => Sys2Proof.Machine.execMtmre src s
  | .cvb dst => Sys2Proof.Machine.execCvb dst s
  | .cvs dst => Sys2Proof.Machine.execCvs dst s
  | .neg dst => Sys2Proof.Machine.execNeg dst s
  | .not dst => Sys2Proof.Machine.execNot dst s
  | .jr src => Sys2Proof.Machine.execJr src s
  | .jalr src => Sys2Proof.Machine.execJalr src s
  | .jplr blank => Sys2Proof.Machine.execJplr blank s
  | .nop n => Sys2Proof.Machine.execNop n s
  | .swi n => Sys2Proof.Machine.execSwi n s
  | .step blank => Sys2Proof.Machine.execStep blank s
  | .halt n => Sys2Proof.Machine.execHalt n s
  | .brkpt blank => Sys2Proof.Machine.execBrkpt blank s
  | .cnt0 src => Sys2Proof.Machine.execCnt0 src s
  | .cnt1 src => Sys2Proof.Machine.execCnt1 src s
  | .set pos => Sys2Proof.Machine.execSet pos s
  | .clr pos => Sys2Proof.Machine.execClr pos s
  | .mtml src => Sys2Proof.Machine.execMtml src s
  | .mtmh src => Sys2Proof.Machine.execMtmh src s
  | .mfml dst => Sys2Proof.Machine.execMfml dst s
  | .mfmh dst => Sys2Proof.Machine.execMfmh dst s
  | .mtcr0 src => Sys2Proof.Machine.execMtcr0 src s
  | .mtcr1 src => Sys2Proof.Machine.execMtcr1 src s
  | .sync blank => Sys2Proof.Machine.execSync blank s
  | .reservedE1B0 bits => Sys2Proof.Machine.execReservedE1B0 bits s
  | .lsea idx => Sys2Proof.Machine.execLsea idx s
  | .lesa dst => Sys2Proof.Machine.execLesa dst s
  | .mfcr0 dst => Sys2Proof.Machine.execMfcr0 dst s
  | .mfcr1 dst => Sys2Proof.Machine.execMfcr1 dst s
  | .avgb dst src => Sys2Proof.Machine.execAvgb dst src s
  | .avgs dst src => Sys2Proof.Machine.execAvgs dst src s
  | .tst src2 src1 => Sys2Proof.Machine.execTst src2 src1 s
  | .lea dst idx => Sys2Proof.Machine.execLea dst idx s
  | .ror imm dst => Sys2Proof.Machine.execRor imm dst s
  | .rol imm dst => Sys2Proof.Machine.execRol imm dst s
  | .mul dst src => Sys2Proof.Machine.execMul dst src s
  | .mulu dst src => Sys2Proof.Machine.execMulu dst src s
  | .mac src2 src1 => Sys2Proof.Machine.execMac src2 src1 s
  | .ldbSp off dst => Sys2Proof.Machine.execLdbSp off dst s
  | .ldsSp off dst => Sys2Proof.Machine.execLdsSp off dst s
  | .ldbuSp off dst => Sys2Proof.Machine.execLdbuSp off dst s
  | .ldsuSp off dst => Sys2Proof.Machine.execLdsuSp off dst s
  | .stbSp off src => Sys2Proof.Machine.execStbSp off src s
  | .stsSp off src => Sys2Proof.Machine.execStsSp off src s
  | .ldau idx cr dst => Sys2Proof.Machine.execLdau idx cr dst s
  | .stau idx cr src => Sys2Proof.Machine.execStau idx cr src s
  | .cpcmd cpno cmd => Sys2Proof.Machine.execCpcmd cpno cmd s
  | .getc cpno pos => Sys2Proof.Machine.execGetc cpno pos s
  | .execCp cpno pos => Sys2Proof.Machine.execExecCp cpno pos s
  | .mvtc cpno reg => Sys2Proof.Machine.execMvtc cpno reg s
  | .mvfc cpno reg => Sys2Proof.Machine.execMvfc cpno reg s
  | .ldcSp cpno reg => Sys2Proof.Machine.execLdcSp cpno reg s
  | .ldcIdx cpno reg => Sys2Proof.Machine.execLdcIdx cpno reg s
  | .stcSp cpno reg => Sys2Proof.Machine.execStcSp cpno reg s
  | .stcIdx cpno reg => Sys2Proof.Machine.execStcIdx cpno reg s
  | .reservedECC0 cpno bits => Sys2Proof.Machine.execReservedECC0 cpno bits s
  | .macb src2 src1 => Sys2Proof.Machine.execMacb src2 src1 s
  | .macs src2 src1 => Sys2Proof.Machine.execMacs src2 src1 s
  | .msopb src2 src1 => Sys2Proof.Machine.execMsopb src2 src1 s
  | .msops src2 src1 => Sys2Proof.Machine.execMsops src2 src1 s
  | .saddb dst src => Sys2Proof.Machine.execSaddb dst src s
  | .sadds dst src => Sys2Proof.Machine.execSadds dst src s
  | .sadub dst src => Sys2Proof.Machine.execSadub dst src s
  | .sadus dst src => Sys2Proof.Machine.execSadus dst src s
  | .sadd dst src => Sys2Proof.Machine.execSadd dst src s
  | .upkls grp dst => Sys2Proof.Machine.execUpkls grp dst s
  | .upkhs grp dst => Sys2Proof.Machine.execUpkhs grp dst s
  | .min dst src => Sys2Proof.Machine.execMin dst src s
  | .max dst src => Sys2Proof.Machine.execMax dst src s
  | .abs dst => Sys2Proof.Machine.execAbs dst s
  | .reservedFB80 bits => Sys2Proof.Machine.execReservedFB80 bits s
  | .reservedFB40 bits => Sys2Proof.Machine.execReservedFB40 bits s
  | .reservedFB20 bits => Sys2Proof.Machine.execReservedFB20 bits s
  | .reservedFB10 bits => Sys2Proof.Machine.execReservedFB10 bits s
  | .upk0lb grp dst => Sys2Proof.Machine.execUpk0lb grp dst s
  | .upk0hb grp dst => Sys2Proof.Machine.execUpk0hb grp dst s
  | .upk1lb grp dst => Sys2Proof.Machine.execUpk1lb grp dst s
  | .upk1hb grp dst => Sys2Proof.Machine.execUpk1hb grp dst s
  | .upk2lb grp dst => Sys2Proof.Machine.execUpk2lb grp dst s
  | .upk2hb grp dst => Sys2Proof.Machine.execUpk2hb grp dst s
  | .upk3lb grp dst => Sys2Proof.Machine.execUpk3lb grp dst s
  | .upk3hb grp dst => Sys2Proof.Machine.execUpk3hb grp dst s

end Sys2Proof.Machine
end

