-- ==== Sys2Proof/Machine/Interrupts.lean ====
section
/-! DEFINITION. What happens at a unit boundary: Reset, NMI and INT (60_exceptions.md R540 to R544,
70_reset_and_hazards.md R580), and the halted, lockup and reserved-mode states. -/

namespace Sys2Proof.Machine

/-! ### Reset -/

/-- SR after Reset (10_state.md R90). -/
def resetSr (s : State) : SR where
  modeHi := false
  modeLo := false
  nmi := false
  int := false
  vi := false
  e := false
  endian := s.sr.endian
  l := false
  c := s.cfg.resetSpr.c
  z := s.cfg.resetSpr.z
  s := s.cfg.resetSpr.s
  v := s.cfg.resetSpr.v

/-- The special registers after Reset (R90): USP is 0, the others are `RESET_SPR`. -/
def resetSprs (r : ResetSpr) : Spr where
  lr := r.lr &&& 0xFFFFFFFE
  er := r.er
  mh := r.mh
  ml := r.ml
  mre := r.mre
  cr0 := r.cr0
  cr1 := r.cr1
  ssp := r.ssp &&& 0xFFFFFFFC
  usp := 0

/-- An entry of the TLB after Reset, which the source leaves undefined (R581): free values. DESIGN CHOICE
(log 5): the virtual word of entry 0, which SCPR7 = 0 selects, is 0, for R90 gives SCPR6 the reset value 0. -/
def resetTlbEntry (draws i : Nat) : TlbEntry where
  vword := if i = 0 then 0 else Config.draw (draws + 2 * i)
  ppn := (Config.draw (draws + 2 * i + 1)).extractLsb' 0 20

/-- The system coprocessor after Reset (R90), the TLB drawn from `draws` on but for what SCPR6 shows (log 5). -/
def resetScp (cfg : Params) (draws : Nat) : Scp where
  gapIndex := cfg.resetSpr.gapIndex
  tlbIndex := 0
  subBankIndex := 0
  subBanks := Vector.replicate 8 { valid := false, ar := false, cc := 0, base := 0, size := 0 }
  tlb := Vector.ofFn fun i => resetTlbEntry draws i.val
  memoryBank := 0
  vectorBase := 0
  pendingCode := 0b1111
  pending := false
  backupIr := 0
  backupEr := 0
  backupPc := 0
  itlbMiss := 0
  dtlbMiss := 0
  pid := 0
  icacheLock := 0
  dcacheLock := 0
  ibusError := 0
  dbusError := 0
  spm := cfg.spmReset

/-- Free bytes at the `n` addresses from `a` up, before what `above` lists, in the canonical form. -/
def freeBytes (byte : Nat → Byte) (a : Nat) : Nat → Memory → Memory
  | 0, above => above
  | n + 1, above =>
    let b := byte (a + n)
    freeBytes byte a n (if b = unlistedByte then above else (a + n, b) :: above)

/-- Scratch-pad storage after Reset: any value in every byte of its four banks
(93_implementation_defined.md, the row of R90 and R143). -/
def resetSpmMem (byte : Nat → Byte) (sizeCode : BitVec 4) : Memory :=
  let bytes := spmBankBytes sizeCode
  freeBytes byte 0 bytes <| freeBytes byte (2 ^ 26) bytes <| freeBytes byte (2 * 2 ^ 26) bytes <|
    freeBytes byte (3 * 2 ^ 26) bytes []

/-- The reset values in force (R580), all but pc: memory is not changed, nothing is pushed. The TLB and the
scratch-pad storage are drawn. What the model keeps besides memory is in log 37. -/
def resetState (s : State) : State :=
  { s with
    gpr := s.cfg.resetGpr
    leris := 0
    sr := resetSr s
    spr := resetSprs s.cfg.resetSpr
    scp := resetScp s.cfg s.draws
    ispmMem := resetSpmMem (fun a => (Config.draw (s.draws + 512 + 2 * a)).extractLsb' 0 8) s.cfg.ispmBankSize
    dspmMem := resetSpmMem (fun a => (Config.draw (s.draws + 513 + 2 * a)).extractLsb' 0 8) s.cfg.dspmBankSize
    halted := false
    lockup := false
    draws := s.draws + 512 + 2 ^ 29 }

/-- The Reset event (R580): the vector is the word read at address 0 with the reset values in force, from
memory, or from a scratch-pad region that `spm_param.vh` enables there. A platform without memory there
is refused. -/
def resetEvent (s : State) : Outcome :=
  let r := resetState s
  match locate .read false .word 0 r with
  | .ok (.storage l _) _ => .next { r with pc := readSized r.sr.endian (r.storage l.space) l.addr .word &&& 0xFFFFFFFE }
  | .ok (.device _) _ | .ok .openBus _ | .raise _ _ => .fault .noResetMemory
  | .fault reason => .fault reason

/-! ### Interrupts -/

/-- `TakeNMI()` (R544). -/
def takeNmi (s : State) : Outcome := exceptionEntry 0x04 s.pc .nmi s

/-- The output event of the special cycle to the interrupt controller (R568). -/
def acknowledge (s : State) : State := { s with events := s.events ++ [.intAck] }

/-- `TakeINT()` (R542, R543). -/
def takeInt (number : Word) (s : State) : Outcome :=
  if s.sr.vi then
    if 0x20 ≤ number ∧ number ≤ 0xFF then exceptionEntry (4 * number) s.pc .normal (acknowledge s)
    else .fault .interruptNumber
  else exceptionEntry 0x08 s.pc .normal (acknowledge s)

/-! ### The unit boundary -/

/-- No request (R577). -/
def noRequest : Boundary where
  resetReq := false
  nmiPending := false
  intPending := false
  intcNumber := 0

/-- The inputs at this boundary: no request once the environment's list is used up (log 9). -/
def requestNow (s : State) : Boundary := s.env.boundaries.head?.getD noRequest

/-- The state with this boundary's inputs consumed. -/
def consumeBoundary (s : State) : State :=
  { s with env := { s.env with boundaries := s.env.boundaries.tail } }

/-- What comes before the next halfword is fetched. -/
inductive Sampled
  /-- The step is over. -/
  | done (o : Outcome)
  /-- The halfword at the fetch address is executed. -/
  | run (s : State)

/-- R540 with the inputs `b`, after R561 (in lockup only Reset is seen) and R28 (no step from mode 01
or 11). DESIGN CHOICE (log 46): a Reset, and lockup, come before the mode is looked at. -/
def sample (b : Boundary) (s : State) : Sampled :=
  if b.resetReq then .done (resetEvent s)
  else if s.lockup then .done (.next s)
  else if s.sr.modeLo then .done (.fault .reservedMode)
  else if b.nmiPending && s.sr.nmi && !s.sr.l then .done (takeNmi s)
  else if b.intPending && s.sr.int && !s.sr.l then .done (takeInt b.intcNumber s)
  else if s.halted then .done (.next s)
  else .run s

/-- What comes before a halfword is fetched: inside a unit nothing is sampled (R533). -/
def boundary (s : State) : Sampled :=
  if s.sr.e then (if s.sr.modeLo then .done (.fault .reservedMode) else .run s)
  else sample (requestNow s) (consumeBoundary s)

end Sys2Proof.Machine
end

