-- ==== Sys2Proof/Machine/Step.lean ====
section
/-! DEFINITION. One step: what the boundary brings, or one halfword fetched, decoded and executed (log
8), and the placing of an instruction where the step fetches it. -/

namespace Sys2Proof.Machine

/-- One step of the machine. A fetch that raises aborts the unit (60_exceptions.md R533). -/
def step (s : State) : Host.Outcome State Fault Refusal :=
  match boundary s with
  | .done o => o
  | .run s => conclude (fetchHalf s) fun w s => exec (decode w) s

/-- The instruction whose bits are `w`, of which the table gives `nbits`, where the next step fetches. -/
def State.withFetchWord (s : State) (nbits w : Nat) : State :=
  placeHalf (BitVec.ofNat 16 (w % 2 ^ nbits)) s

end Sys2Proof.Machine
end

