-- ==== Sys2Proof/Safety.lean ====
section
/-! DEFINITION. The words statements about the machine are made of: the invariant every step keeps, what
leaves which part of the state alone, and when an access is plain. -/

namespace Sys2Proof.Safety

open Sys2Proof.Machine

/-! ### The invariant -/

/-- What holds of every state the machine can be in, whatever is in memory and whatever arrives. -/
structure MachineInv (s : State) : Prop where
  /-- 10_state.md R31. -/
  pcEven : s.pc.getLsbD 0 = false
  /-- R32. -/
  lrEven : s.spr.lr.getLsbD 0 = false
  /-- R38. -/
  sspAligned : s.spr.ssp.extractLsb' 0 2 = 0
  /-- R38, R59. -/
  uspAligned : s.spr.usp.extractLsb' 0 2 = 0
  /-- R55. -/
  vectorBaseAligned : s.scp.vectorBase.extractLsb' 0 10 = 0
  /-- R29: E is 1 exactly inside a unit. -/
  extension : s.sr.e = true ↔ 0 < s.leris
  /-- R60 to R62: the pending number is 1111 exactly when nothing is pending. -/
  pendingCode : s.scp.pending = true ↔ s.scp.pendingCode ≠ 0b1111
  /-- The canonical form of the three storages. -/
  memWf : s.mem.wf = true
  ispmWf : s.ispmMem.wf = true
  dspmWf : s.dspmMem.wf = true

/-! ### Frames: what is the same in `t` as in `s` -/

/-- Every general register but those listed. -/
def KeepsGprs (s t : State) (except : List Reg) : Prop := ∀ r, r ∉ except → readReg t r = readReg s r

/-- C, Z, S and V. -/
def KeepsFlags (s t : State) : Prop :=
  t.sr.c = s.sr.c ∧ t.sr.z = s.sr.z ∧ t.sr.s = s.sr.s ∧ t.sr.v = s.sr.v

/-- Every field of SR but the flags and E. -/
def KeepsSystemBits (s t : State) : Prop :=
  t.sr.modeHi = s.sr.modeHi ∧ t.sr.modeLo = s.sr.modeLo ∧ t.sr.nmi = s.sr.nmi ∧ t.sr.int = s.sr.int
    ∧ t.sr.vi = s.sr.vi ∧ t.sr.l = s.sr.l ∧ t.sr.endian = s.sr.endian

/-- Every byte of the three storages. -/
def KeepsMemory (s t : State) : Prop := ∀ l : Loc, t.byteAt l = s.byteAt l

/-- A location is not one of the `n` bytes from `l` up. -/
def Outside (l : Loc) (n : Nat) (m : Loc) : Prop := m.space ≠ l.space ∨ m.addr < l.addr ∨ l.addr + n ≤ m.addr

/-- Every byte of the three storages but the `n` from `l` up. -/
def KeepsMemoryOutside (s t : State) (l : Loc) (n : Nat) : Prop :=
  ∀ m : Loc, Outside l n m → t.byteAt m = s.byteAt m

/-- The registers of the system coprocessor and the tables behind them. -/
def KeepsScp (s t : State) : Prop := t.scp = s.scp

/-- Coprocessors 1 to 3. -/
def KeepsCoprocs (s t : State) : Prop := t.cp1 = s.cp1 ∧ t.cp2 = s.cp2 ∧ t.cp3 = s.cp3

/-- Halted, lockup, the parameters, the inputs and the outputs. -/
def KeepsPlatform (s t : State) : Prop :=
  t.halted = s.halted ∧ t.lockup = s.lockup ∧ t.cfg = s.cfg ∧ t.env = s.env ∧ t.events = s.events

/-- Everything but the general and special registers, the flags, pc, the count of LERIs and E. -/
def KeepsRest (s t : State) : Prop :=
  KeepsSystemBits s t ∧ KeepsMemory s t ∧ KeepsScp s t ∧ KeepsCoprocs s t ∧ KeepsPlatform s t
    ∧ t.stale = s.stale

/-- The unit is over and the next begins at `target`: 10_state.md R31, 30_encoding.md R209. -/
def UnitEnds (t : State) (target : Word) : Prop :=
  t.pc = target &&& 0xFFFFFFFE ∧ t.leris = 0 ∧ t.sr.e = false

/-- Every field of SR but the flags and E, the coprocessors, halted, lockup and the parameters: what no
memory access and no arithmetic changes. -/
def KeepsAround (s t : State) : Prop :=
  KeepsSystemBits s t ∧ KeepsCoprocs s t ∧ t.halted = s.halted ∧ t.lockup = s.lockup ∧ t.cfg = s.cfg

/-- One general register is written, nothing else but the flags, and the unit is over. -/
def WritesReg (s t : State) (dst : Reg) (v : Word) : Prop :=
  readReg t dst = v ∧ KeepsGprs s t [dst] ∧ t.spr = s.spr ∧ KeepsRest s t ∧ UnitEnds t (nextAddr s)

/-- No general register is written, and the special registers become `spr`; nothing else changes but the
flags, and the unit is over. -/
def WritesSpecial (s t : State) (spr : Spr) : Prop :=
  KeepsGprs s t [] ∧ t.spr = spr ∧ KeepsRest s t ∧ UnitEnds t (nextAddr s)

/-! ### Flags -/

/-- Z and S as a result fixes them (43_arith_logic.md R360). -/
def NzFlags (sr : SR) (r : Word) : Prop := (sr.z = true ↔ r = 0) ∧ (sr.s = true ↔ r.toInt < 0)

/-- C, Z, S and V of `a + b + cin` (R360): C when the unsigned sum does not fit, V when the signed sum does
not. -/
def AddFlags (sr : SR) (a b : Word) (cin : Bool) : Prop :=
  (sr.c = true ↔ 2 ^ 32 ≤ a.toNat + b.toNat + cin.toNat)
    ∧ (sr.z = true ↔ (a.toNat + b.toNat + cin.toNat) % 2 ^ 32 = 0)
    ∧ (sr.s = true ↔ 2 ^ 31 ≤ (a.toNat + b.toNat + cin.toNat) % 2 ^ 32)
    ∧ (sr.v = true ↔ a.toInt + b.toInt + cin.toNat < -2 ^ 31 ∨ 2 ^ 31 ≤ a.toInt + b.toInt + cin.toNat)

/-- C, Z, S and V of `a - b - bin` (R360): C is the borrow, V when the signed difference does not fit. -/
def SubFlags (sr : SR) (a b : Word) (bin : Bool) : Prop :=
  (sr.c = true ↔ a.toNat < b.toNat + bin.toNat)
    ∧ (sr.z = true ↔ ((a.toNat : Int) - b.toNat - bin.toNat) % 2 ^ 32 = 0)
    ∧ (sr.s = true ↔ 2 ^ 31 ≤ ((a.toNat : Int) - b.toNat - bin.toNat) % 2 ^ 32)
    ∧ (sr.v = true ↔ a.toInt - b.toInt - bin.toNat < -2 ^ 31 ∨ 2 ^ 31 ≤ a.toInt - b.toInt - bin.toNat)

/-! ### Values in memory -/

/-- The location of a physical address on the bus. -/
def busLoc (a : Word) : Loc := { space := .bus, addr := a.toNat }

/-- The word at a location, in the byte order of SR.Endian (20_memory.md R100). -/
def wordAt (s : State) (l : Loc) : Word := readSized s.sr.endian (s.storage l.space) l.addr .word

/-- Byte `k` of the `n` bytes a value is stored as, from the lowest address up (R100). -/
def storedByte (bigEndian : Bool) (n k : Nat) (v : Word) : Byte :=
  v.extractLsb' (8 * (if bigEndian then n - 1 - k else k)) 8

/-- The `n` bytes from `l` up hold `v` in the byte order of SR.Endian (R100). -/
def HoldsAt (s : State) (l : Loc) (n : Nat) (v : Word) : Prop :=
  v.toNat < 2 ^ (8 * n) ∧ ∀ k < n, s.byteAt { l with addr := l.addr + k } = storedByte s.sr.endian n k v

/-- What a read of `n` bytes gets from where the access ended, and the inputs it leaves: the bytes of
storage; from a device the next input, cut to the size, or a free value when none is left (R112); from an
open bus a free value (R113). -/
def AnswersRead (s : State) (g : Target) (n : Nat) (v : Word) (env : Env) : Prop :=
  (∀ l cc, g = .storage l cc → HoldsAt s l n v ∧ env = s.env)
  ∧ (∀ pa w rest, g = .device pa → s.env.deviceReads = w :: rest →
    v.toNat = w.toNat % 2 ^ (8 * n) ∧ env = { s.env with deviceReads := rest })
  ∧ (∀ pa, g = .device pa → s.env.deviceReads = [] → v.toNat < 2 ^ (8 * n) ∧ env = s.env)
  ∧ (g = .openBus → v.toNat < 2 ^ (8 * n) ∧ env = s.env)

/-- A loaded value extended to 32 bits (40_load_store.md R271). -/
def extended (size : AccessSize) (signed : Bool) (v : Word) : Word :=
  match size, signed with
  | .byte, true => BitVec.ofInt 32 (v.setWidth 8).toInt
  | .half, true => BitVec.ofInt 32 (v.setWidth 16).toInt
  | _, _ => v

/-- How many bits of a list stand below bit `b`: which of its words is bit `b`'s (R288). -/
def rankIn (list : BitVec 8) (b : BitVec 3) : Nat := ((listBits list).filter fun c => c < b).length

/-- R110 steps 3, 5 and 6 for an access that meets no scratch-pad region, no translation, no sub-bank,
and RAM: the bank's access right is met. -/
structure PlainRam (user : Bool) (va : Word) (s : State) : Prop where
  noSpm : spmHits s va = []
  noTlb : (bankNibble s va).getLsbD 3 = false ∨ s.cfg.tlbConfig = .none
  noSubBank : ∀ b ∈ s.scp.subBanks.toList, subBankMatches va b = false
  right : user = true → (bankNibble s va).getLsbD 2 = true
  ram : regionAt s.cfg.platform va = some .ram

/-- The words of a PUSH or POP are all in plain RAM, and the stack pointer is aligned. -/
def PlainStack (user : Bool) (bottom : Word) (n : Nat) (s : State) : Prop :=
  bottom.extractLsb' 0 2 = 0 ∧ ∀ k < n, PlainRam user (bottom + 4 * BitVec.ofNat 32 k) s

/-- An aligned supervisor access that meets no scratch-pad region, no translation, no sub-bank, and nothing
on the bus: Bus Error (R110, R113). -/
structure NoMemoryAt (va : Word) (s : State) : Prop where
  noSpm : spmHits s va = []
  noTlb : (bankNibble s va).getLsbD 3 = false ∨ s.cfg.tlbConfig = .none
  noSubBank : ∀ b ∈ s.scp.subBanks.toList, subBankMatches va b = false
  hole : regionAt s.cfg.platform va = none

/-- A data access whose address has no entry in the TLB (20_memory.md R131). -/
structure TlbMissAt (va : Word) (s : State) : Prop where
  noSpm : spmHits s va = []
  bank : (bankNibble s va).getLsbD 3 = true
  tlb : s.cfg.tlbConfig ≠ .none
  miss : tlbHits s .read va = []

/-! ### POP of the special list -/

/-- What POP of the special list leaves but for SR's word, `word b` being the word of bit `b`
(40_load_store.md R290): the special registers, the stack pointer of the mode it began in, and pc. -/
def PopsSpecial (s t : State) (list : BitVec 8) (word : BitVec 3 → Word) : Prop :=
  let sp := (readSp s + 4 * BitVec.ofNat 32 (listBits list).length) &&& 0xFFFFFFFC
  t.spr = { s.spr with
      cr0 := if list.getLsbD 0 then word 0 else s.spr.cr0
      cr1 := if list.getLsbD 1 then word 1 else s.spr.cr1
      ml := if list.getLsbD 2 then word 2 else s.spr.ml
      mh := if list.getLsbD 3 then word 3 else s.spr.mh
      lr := if list.getLsbD 5 then word 5 &&& 0xFFFFFFFE else s.spr.lr
      usp := if isUser s then sp else s.spr.usp
      ssp := if isUser s then s.spr.ssp else sp }
    ∧ UnitEnds t (if list.getLsbD 6 then word 6 else nextAddr s)
    ∧ (list.getLsbD 7 = false → t.sr = { s.sr with e := false })
    ∧ KeepsGprs s t []

/-- The four flags loaded from a word (10_state.md R25). -/
def LoadsFlags (layout : SrLayout) (sr : SR) (w : Word) : Prop :=
  sr.c = w.getLsbD layout.c.toNat ∧ sr.z = w.getLsbD layout.z.toNat
    ∧ sr.s = w.getLsbD layout.s.toNat ∧ sr.v = w.getLsbD layout.v.toNat

/-- SR loaded from a word, but for its read-only bits (R26). -/
def LoadsSr (s t : State) (w : Word) : Prop :=
  t.sr.endian = s.sr.endian ∧ t.sr.modeHi = w.getLsbD 15 ∧ t.sr.modeLo = w.getLsbD 9
    ∧ t.sr.nmi = w.getLsbD s.cfg.srLayout.nmi.toNat ∧ t.sr.int = w.getLsbD s.cfg.srLayout.int.toNat
    ∧ t.sr.vi = w.getLsbD s.cfg.srLayout.vi.toNat ∧ t.sr.l = w.getLsbD s.cfg.srLayout.l.toNat
    ∧ LoadsFlags s.cfg.srLayout t.sr w

/-! ### The system coprocessor -/

/-- Entry `k` of the sub-bank table. -/
def subBankAt (s : State) (k : BitVec 3) : SubBank := s.scp.subBanks[k.toNat]'k.isLt

/-- What MVTC of `v` to the system register `reg` leaves of the system coprocessor, for every register with
storage or an effect but the data register of the general access point (10_state.md R47 to R62). -/
def WritesScpr (s t : State) (reg : BitVec 4) (v : Word) : Prop :=
  (reg = 3 → t.scp = { s.scp with gapIndex := v })
  ∧ (reg = 5 → t.scp = { s.scp with subBanks := t.scp.subBanks }
    ∧ ∀ k, subBankAt t k = if k = s.scp.subBankIndex
      then { subBankAt s k with base := v.extractLsb' 12 20, size := v.extractLsb' 0 12 } else subBankAt s k)
  ∧ (reg = 6 → t.scp = { s.scp with tlb := t.scp.tlb }
    ∧ (selectedSlot s).toNat
      = (if s.cfg.tlbConfig = .separated64 ∨ s.cfg.tlbConfig = .separated128
          then s.scp.tlbIndex.toNat / 256 * 128 else 0)
        + s.scp.tlbIndex.toNat / 2 % 4 * 32
        + s.scp.tlbIndex.toNat / 8 % (if s.cfg.tlbConfig = .separated64 then 16 else 32)
    ∧ ∀ slot, readTlb t slot = if slot = selectedSlot s
      then (if s.scp.tlbIndex.getLsbD 0 then { readTlb s slot with ppn := v.extractLsb' 12 20 }
        else { readTlb s slot with vword := v })
      else readTlb s slot)
  ∧ (reg = 7 → t.scp = { s.scp with tlbIndex := v.extractLsb' 0 9 })
  ∧ (reg = 8 → t.scp = { s.scp with subBankIndex := v.extractLsb' 4 3, subBanks := t.scp.subBanks }
    ∧ ∀ k, subBankAt t k = if k = v.extractLsb' 4 3
      then { subBankAt s k with valid := v.getLsbD 3, ar := v.getLsbD 2, cc := v.extractLsb' 0 2 }
      else subBankAt s k)
  ∧ (reg = 9 → t.scp = { s.scp with memoryBank := v })
  ∧ (reg = 11 → t.scp = { s.scp with icacheLock := t.scp.icacheLock, dcacheLock := t.scp.dcacheLock }
    ∧ (v.extractLsb' 0 3 ≠ 0b010 → t.scp.icacheLock = s.scp.icacheLock)
    ∧ (v.extractLsb' 0 3 ≠ 0b011 → t.scp.dcacheLock = s.scp.dcacheLock)
    ∧ (v.getLsbD 1 = true → t.stale = s.stale))
  ∧ (reg = 12 → t.scp = { s.scp with vectorBase := v &&& 0xFFFFFC00 })
  ∧ (reg = 15 → t.scp = { s.scp with pending := false, pendingCode := 0b1111 })

/-- The local registers of scratch-pad bank `n`, of the instruction side or the data side. -/
def spmBankAt (data : Bool) (s : State) (n : BitVec 2) : SpmBank :=
  if data then s.scp.spm.dBanks[n.toNat]'n.isLt else s.scp.spm.iBanks[n.toNat]'n.isLt

/-- What MVTC of `v` to the general access point with index `index` leaves of the system coprocessor
(R63 to R72): the writable fields of the one register, and nothing for any other index. -/
def WritesGap (s t : State) (index v : Word) : Prop :=
  let bankIs := fun (data : Bool) (n : BitVec 2) (b : SpmBank) =>
    t.scp = { s.scp with spm := { s.scp.spm with iBanks := t.scp.spm.iBanks, dBanks := t.scp.spm.dBanks } }
      ∧ ∀ d q, spmBankAt d t q = if d = data ∧ q = n then b else spmBankAt d s q
  (index = 0x302 → t.scp = { s.scp with pid := v.extractLsb' 0 8 })
  ∧ (index = 0x700 → t.scp = { s.scp with spm := { s.scp.spm with
      iConfig := v.extractLsb' 16 4, iEnable := v.extractLsb' 12 4
      dConfig := v.extractLsb' 4 4, dEnable := v.extractLsb' 0 4 } })
  ∧ (∀ (data : Bool) (n : BitVec 2),
    let first : Word := (if data then 0x704 else 0x701) + 16 * n.setWidth 32
    (index = first → bankIs data n
      { spmBankAt data s n with privilege := v.extractLsb' 4 4, enable := v.extractLsb' 0 4 })
    ∧ (index = first + 1 → bankIs data n { spmBankAt data s n with start := v })
    ∧ (index = first + 2 → bankIs data n { spmBankAt data s n with last := v }))
  ∧ (index ≠ 0x302 → index ≠ 0x700 →
    (∀ n : BitVec 2, ∀ k ∈ [0x701#32, 0x702, 0x703, 0x704, 0x705, 0x706], index ≠ k + 16 * n.setWidth 32) →
    t.scp = s.scp)

/-- What MVFC reads from the system register `reg`, for every readable one but the data register of the
general access point (44_coprocessor.md R426, 10_state.md R47 to R60). -/
def ReadsScpr (s : State) (reg : BitVec 4) (v : Word) : Prop :=
  let bank := subBankAt s s.scp.subBankIndex
  let entry := readTlb s (selectedSlot s)
  (reg = 3 → v = s.scp.gapIndex)
  ∧ (reg = 5 → v.toNat = bank.base.toNat * 2 ^ 12 + bank.size.toNat)
  ∧ (reg = 6 → v.toNat = if s.scp.tlbIndex.getLsbD 0 then entry.ppn.toNat * 2 ^ 12 else entry.vword.toNat)
  ∧ (reg = 7 → v.toNat = s.scp.tlbIndex.toNat)
  ∧ (reg = 8 → v.toNat = s.scp.subBankIndex.toNat * 2 ^ 4 + bank.valid.toNat * 2 ^ 3 + bank.ar.toNat * 2 ^ 2
    + bank.cc.toNat)
  ∧ (reg = 9 → v = s.scp.memoryBank) ∧ (reg = 12 → v = s.scp.vectorBase) ∧ (reg = 13 → v = s.spr.usp)
  ∧ (reg = 15 → v.toNat = 0x90030000 + (tlbConfigCode s.cfg.tlbConfig).toNat * 2 ^ 19
    + s.cfg.cacheAbsent.toNat * 2 ^ 18 + s.scp.pendingCode.toNat * 2 ^ 2 + s.scp.pending.toNat * 2)

/-- What MVFC reads through the general access point with index `index` (R63 to R72). -/
def ReadsGap (s : State) (index v : Word) : Prop :=
  let spm := s.scp.spm
  (index = 0x000 → v.toNat = s.scp.backupIr.toNat) ∧ (index = 0x001 → v = s.scp.backupEr)
  ∧ (index = 0x002 → v = s.scp.backupPc) ∧ (index = 0x300 → v = s.scp.itlbMiss)
  ∧ (index = 0x301 → v = s.scp.dtlbMiss) ∧ (index = 0x302 → v.toNat = s.scp.pid.toNat)
  ∧ (index = 0x500 → v.toNat = s.scp.icacheLock.toNat) ∧ (index = 0x501 → v.toNat = s.scp.dcacheLock.toNat)
  ∧ (index = 0x600 → v = s.scp.ibusError) ∧ (index = 0x601 → v = s.scp.dbusError)
  ∧ (index = 0x700 → v.toNat = spm.excStatus.toNat * 2 ^ 28 + s.cfg.ispmBankSize.toNat * 2 ^ 20
    + spm.iConfig.toNat * 2 ^ 16 + spm.iEnable.toNat * 2 ^ 12 + s.cfg.dspmBankSize.toNat * 2 ^ 8
    + spm.dConfig.toNat * 2 ^ 4 + spm.dEnable.toNat)
  ∧ ∀ (data : Bool) (n : BitVec 2),
    let first : Word := (if data then 0x704 else 0x701) + 16 * n.setWidth 32
    let bank := spmBankAt data s n
    (index = first → v.toNat
      = s.cfg.spmExternal.toNat * 2 ^ 8 + bank.privilege.toNat * 2 ^ 4 + bank.enable.toNat)
    ∧ (index = first + 1 → v = bank.start) ∧ (index = first + 2 → v = bank.last)

/-! ### The DSP option -/

/-- A result function of the DSP option (45_dsp.md R441) gave `v` for the operands `a` and `b`: the
function supplied for the instruction, or else what its default says. -/
def DspValue (s : State) (op : DspOp) (a b v : Word) (default : Prop) : Prop :=
  (op ∈ s.cfg.dspSupplied → v = Config.dspFn op a b) ∧ (op ∉ s.cfg.dspSupplied → default)

/-! ### What an access records -/

/-- The state in which nothing has been recorded and nothing is different but TLB entries, in them the
dirty and accessed bits alone (20_memory.md R131). -/
def OnlyTlbTouched (s t : State) : Prop :=
  (∃ tlb, t = { s with scp := { s.scp with tlb := tlb } }) ∧
    ∀ slot, (readTlb t slot).ppn = (readTlb s slot).ppn ∧
      (readTlb t slot).vword &&& ~~~(0x22#32) = (readTlb s slot).vword &&& ~~~(0x22#32)

end Sys2Proof.Safety
end

