-- ==== Sys2Proof/Certificates/Slice0/Obligations.lean ====
section
/-! DEFINITION. The statements for the provers. A docstring names the rules of spec/ a statement
formalises and, where those rest on a choice, the spec's decision or the log entry. -/

open Sys2Proof Sys2Proof.Machine Sys2Proof.Safety

/-! ### Encoding and stepping -/

/-- 30_encoding.md R205, R207: every operand at every value survives encoding. -/
def Obligations.DecodeOfEncode : Prop := ∀ i : Instr, decode (encode i) = i

/-- R207: the rows partition the halfwords, so each halfword has exactly one instruction. -/
def Obligations.EncodeOfDecode : Prop := ∀ w : Half, encode (decode w) = w

/-- Words written out from the encodings of the instruction rules. -/
def Obligations.WrittenWordsDecode : Prop :=
  decode 0x02F3 = .ldIdx 2 15 3 ∧ decode 0x3190 = .stsIdx 1 1 0 ∧ decode 0xB43C = .pushSpec 0x3C
    ∧ decode 0x448D = .leri 0x048D ∧ decode 0xE406 = .lea 0 6 ∧ decode 0xDF0F = .jal 0x0F
    ∧ decode 0xC3DF = .addq 3 0x1F ∧ decode 0xC28E = .aslReg 2 3 ∧ decode 0xE651 = .mulu 2 1
    ∧ decode 0xEC6D = .mvtc 0 13 ∧ decode 0xEEB1 = .stcIdx 2 1 ∧ decode 0xFD51 = .upk1hb 2 1
    ∧ decode 0xE12F = .set 15 ∧ decode 0xE0C1 = .swi 1 ∧ decode 0xFB10 = .reservedFB10 0

/-- 60_exceptions.md R533, R540: a step executes the instruction its halfword decodes to. First for any
fetch, then for one that raises, then for two bytes of plain RAM that nothing has left stale: what the
boundary adds around `exec` is that one entry of the environment's list is used up between units. Rests
on the spec's decisions D36 and D19 (the halfword is assembled in the order of SR.Endian, log 29); that a
step is one halfword of a unit is log 8, and that the inputs are a list of entries is log 9. -/
def Obligations.StepRunsDecoded : Prop :=
  (∀ s u v : State, ∀ w : Half, ∀ i : Instr, boundary s = .run u → fetchHalf u = .ok w v → decode w = i →
      i.wellFormed = true → step s = exec i v)
    ∧ (∀ s u v : State, ∀ off : Word, boundary s = .run u → fetchHalf u = .raise off v →
      step s = exceptionEntry off v.pc .normal v)
    ∧ (∀ s : State, s.sr.modeLo = false → s.sr.e = true → boundary s = .run s)
    ∧ (∀ s : State, s.sr.modeLo = false → s.sr.e = false → s.lockup = false → s.halted = false →
      (requestNow s).resetReq = false → ((requestNow s).nmiPending = false ∨ s.sr.nmi = false ∨ s.sr.l = true) →
      ((requestNow s).intPending = false ∨ s.sr.int = false ∨ s.sr.l = true) →
      boundary s = .run (consumeBoundary s))
    ∧ (∀ s : State, PlainRam (isUser s) (fetchAddr s) s → (∀ e ∈ s.stale, e.loc ≠ busLoc (fetchAddr s)) →
      fetchHalf s = .ok (halfOfBytes s.sr.endian (readByte s.mem (fetchAddr s).toNat)
        (readByte s.mem ((fetchAddr s).toNat + 1))) s)

/-! ### Whole machine -/

/-- 10_state.md R90: the reset state has the invariant. -/
def Obligations.ResetHasInvariant : Prop := MachineInv State.reset

/-- Every step keeps the invariant, whatever state it starts in. Rests on the spec's decisions D21 (pc and
LR even), D41 (stack pointers aligned) and D44 (pending code), and on the model's canonical memory. -/
def Obligations.StepKeepsInvariant : Prop := ∀ s t : State, MachineInv s → step s = .next t → MachineInv t

/-- 60_exceptions.md R565, R566: a step that starts and ends in user mode, and does not end in lockup, leaves
SSP, the system bits of SR, every register of the system coprocessor but the backup registers that NOP 1
latches, in the TLB everything but the dirty and accessed bits, supervisor-only coprocessors, and whether
the machine is halted. Whatever `UserSysWrite` is (the spec's decision D22). R565's supervisor-only memory
is not in this statement: UntranslatedAccess, TranslatedAccess and ScratchPadAccess say where a user access
raises. -/
def Obligations.UserStepKeepsSupervisorState : Prop :=
  ∀ s t : State, isUser s = true → step s = .next t → isUser t = true → t.lockup = false →
    t.spr.ssp = s.spr.ssp ∧ KeepsSystemBits s t ∧ t.cfg = s.cfg ∧ t.halted = s.halted
      ∧ (∃ tlb ir er pc, t.scp =
        { s.scp with tlb := tlb, backupIr := ir, backupEr := er, backupPc := pc })
      ∧ (∀ slot, (readTlb t slot).ppn = (readTlb s slot).ppn
        ∧ (readTlb t slot).vword &&& ~~~(0x22#32) = (readTlb s slot).vword &&& ~~~(0x22#32))
      ∧ (s.cp1.supervisorOnly = true → t.cp1 = s.cp1) ∧ (s.cp2.supervisorOnly = true → t.cp2 = s.cp2)
      ∧ (s.cp3.supervisorOnly = true → t.cp3 = s.cp3)

/-- R566, R531: a step from user mode that does not end in user mode is a Reset or an exception entry: it
ends in supervisor mode with INT clear and no unit begun, and unless Reset was requested SSP is one frame
lower and nothing halts. Rests on the spec's decision D15. -/
def Obligations.UserModeLeftOnlyByEntry : Prop :=
  ∀ s t : State, isUser s = true → step s = .next t → isUser t = false →
    t.sr.mode = .supervisor ∧ t.sr.int = false ∧ t.sr.e = false ∧ t.leris = 0 ∧ t.halted = false
      ∧ (s.lockup = false → t.lockup = false)
      ∧ ((requestNow s).resetReq = false → t.spr.ssp = s.spr.ssp - 8 ∧ t.spr.usp = s.spr.usp)

/-- 20_memory.md R100, 00_scope.md R8: no step changes the byte order or a parameter. That none attaches,
removes or re-privileges a coprocessor is the model's choice (log 15): 44_coprocessor.md R422 does not say. -/
def Obligations.StepKeepsConfiguration : Prop :=
  ∀ s t : State, step s = .next t →
    t.cfg = s.cfg ∧ t.sr.endian = s.sr.endian
      ∧ t.cp1.present = s.cp1.present ∧ t.cp1.supervisorOnly = s.cp1.supervisorOnly
      ∧ t.cp2.present = s.cp2.present ∧ t.cp2.supervisorOnly = s.cp2.supervisorOnly
      ∧ t.cp3.present = s.cp3.present ∧ t.cp3.supervisorOnly = s.cp3.supervisorOnly

/-- R100, R105: a value stored reads back, its bytes lie in the byte order, and no other byte changes. What
big-endian order is rests on the spec's general knowledge (20_memory.md R100; log 27). -/
def Obligations.StoredValueReadsBack : Prop :=
  ∀ (be : Bool) (m : Memory) (a x : Nat) (z : AccessSize) (v : Word),
    (readSized be (writeSized be m a z v) a z).toNat = v.toNat % 2 ^ (8 * sizeBytes z)
      ∧ (∀ k < sizeBytes z, readByte (writeSized be m a z v) (a + k) = storedByte be (sizeBytes z) k v)
      ∧ (x < a ∨ a + sizeBytes z ≤ x → readByte (writeSized be m a z v) x = readByte m x)

/-! ### Operands, LERI and moves -/

/-- 30_encoding.md R210 to R213: what every operand form gives, as numbers. Rests on the spec's decisions
D3 to D6. -/
def Obligations.OperandForms : Prop :=
  ∀ (s : State) (f : Reg) (imm : BitVec 8) (n : Nat) (g : BitVec n) (k : Nat),
    (s.sr.e = false → srcImm s f = readReg s f ∧ erImm s = 0
      ∧ (ldiImm s imm).toInt = imm.toInt ∧ (aspoImm s imm).toInt = 4 * imm.toInt
      ∧ (branchDisp s imm).toInt = 2 * imm.toInt
      ∧ (n + k ≤ 32 → (offsetImm s g k).toNat = g.toNat * 2 ^ k))
    ∧ (s.sr.e = true → (srcImm s f).toNat = (s.spr.er.toNat * 16 + f.toNat) % 2 ^ 32 ∧ erImm s = s.spr.er
      ∧ (branchDisp s imm).toNat = (s.spr.er.toNat * 512 + imm.toNat * 2) % 2 ^ 32
      ∧ (s.cfg.extOffsetRule = .low4 → n + k ≤ 32 →
        (offsetImm s g k).toNat = (s.spr.er.toNat * 16 + g.toNat * 2 ^ k % 16) % 2 ^ 32)
      ∧ (s.cfg.extOffsetRule = .full → n ≤ 32 →
        (offsetImm s g k).toNat = (s.spr.er.toNat * 2 ^ n + g.toNat) % 2 ^ 32)
      ∧ (s.cfg.extOffsetRule = .low4 →
        (ldiImm s imm).toNat = (s.spr.er.toNat * 16 + imm.toNat % 16) % 2 ^ 32
          ∧ (aspoImm s imm).toNat = (s.spr.er.toNat * 16 + imm.toNat * 4 % 16) % 2 ^ 32)
      ∧ (s.cfg.extOffsetRule = .full →
        (ldiImm s imm).toNat = (s.spr.er.toNat * 256 + imm.toNat) % 2 ^ 32
          ∧ (aspoImm s imm).toNat = (s.spr.er.toNat * 256 + imm.toNat) % 2 ^ 32))

/-- 41_move.md R300: LERI completes in every state. Rests on the spec's decision D3. -/
def Obligations.LeriExtends : Prop :=
  ∀ (imm : BitVec 14) (s : State), ∃ t, exec (.leri imm) s = .next t
    ∧ (s.sr.e = false → t.spr.er.toInt = imm.toInt)
    ∧ (s.sr.e = true → t.spr.er.toNat = (s.spr.er.toNat * 2 ^ 14 + imm.toNat) % 2 ^ 32)
    ∧ t.spr = { s.spr with er := t.spr.er } ∧ t.sr = { s.sr with e := true }
    ∧ t.leris = s.leris + 1 ∧ t.pc = s.pc
    ∧ KeepsGprs s t [] ∧ KeepsRest s t

/-- R300, R301, 30_encoding.md R210: two LERIs and LDI load any 32-bit constant under `low4`, and change
nothing but the destination and ER. Rests on the spec's decisions D3 and D4. -/
def Obligations.TwoPrefixesLoadAnyConstant : Prop :=
  ∀ (v : Word) (dst : Reg) (s : State), s.sr.e = false → s.leris = 0 → s.cfg.extOffsetRule = .low4 →
    ∃ t u w, exec (.leri (v.extractLsb' 18 14)) s = .next t ∧ exec (.leri (v.extractLsb' 4 14)) t = .next u
      ∧ exec (.ldi dst ((v.extractLsb' 0 4).setWidth 8)) u = .next w
      ∧ readReg w dst = v ∧ KeepsGprs s w [dst] ∧ KeepsFlags s w ∧ KeepsRest s w
      ∧ w.spr = { s.spr with er := w.spr.er } ∧ UnitEnds w (s.pc + 6)

/-- R301 to R305: LDI, LEA and LESA write one register; LEA(ASPO) and LSEA write the stack pointer of the
current mode, bits 1:0 clear. No flag changes. Rests on the spec's decision D41. -/
def Obligations.ImmediateAndAddressMoves : Prop :=
  ∀ (s : State) (dst idx : Reg) (imm : BitVec 8),
    (∀ f ∈ [(Instr.ldi dst imm, ldiImm s imm), (Instr.lea dst idx, readReg s idx + erImm s),
        (Instr.lesa dst, readSp s + erImm s)],
      ∃ t, exec f.1 s = .next t ∧ WritesReg s t dst f.2 ∧ KeepsFlags s t)
    ∧ ∀ f ∈ [(Instr.leaAspo imm, readSp s + aspoImm s imm), (Instr.lsea idx, readReg s idx + erImm s)],
      ∃ t, exec f.1 s = .next t ∧ KeepsFlags s t
        ∧ (isUser s = true → WritesSpecial s t { s.spr with usp := f.2 &&& 0xFFFFFFFC })
        ∧ (isUser s = false → WritesSpecial s t { s.spr with ssp := f.2 &&& 0xFFFFFFFC })
        ∧ (readSp t).toNat = f.2.toNat / 4 * 4

/-- R310 to R317: the moves between a general register and ML, MH, CR0 or CR1, and their halfwords. -/
def Obligations.SpecialRegisterMoves : Prop :=
  ∀ (s : State) (r : Reg),
    (∀ f ∈ [(0xE140#16, Instr.mtml r), (0xE150, Instr.mtmh r), (0xE160, Instr.mfml r), (0xE170, Instr.mfmh r),
        (0xE180, Instr.mtcr0 r), (0xE190, Instr.mtcr1 r), (0xE1E0, Instr.mfcr0 r), (0xE1F0, Instr.mfcr1 r)],
      decode (f.1 ||| r.setWidth 16) = f.2) ∧
    (∀ f ∈ [(Instr.mtml r, { s.spr with ml := readReg s r }), (Instr.mtmh r, { s.spr with mh := readReg s r }),
        (Instr.mtcr0 r, { s.spr with cr0 := readReg s r }),
        (Instr.mtcr1 r, { s.spr with cr1 := readReg s r })],
      ∃ t, exec f.1 s = .next t ∧ WritesSpecial s t f.2 ∧ KeepsFlags s t)
    ∧ ∀ f ∈ [(Instr.mfml r, s.spr.ml), (Instr.mfmh r, s.spr.mh), (Instr.mfcr0 r, s.spr.cr0),
        (Instr.mfcr1 r, s.spr.cr1)],
      ∃ t, exec f.1 s = .next t ∧ WritesReg s t r f.2 ∧ KeepsFlags s t

/-! ### Arithmetic -/

/-- 43_arith_logic.md R361, R362, R369: ADD, ADC and ADDQ. Rests on the spec's decisions D8 and D9. -/
def Obligations.AddInstructions : Prop :=
  ∀ (s : State) (dst src : Reg) (imm : BitVec 5),
    ∀ f ∈ [(Instr.add dst src, srcImm s src, false), (Instr.adc dst src, srcImm s src, s.sr.c),
        (Instr.addq dst imm, imm.signExtend 32, false)],
      ∃ t v, exec f.1 s = .next t ∧ WritesReg s t dst v
        ∧ v.toNat = ((readReg s dst).toNat + f.2.1.toNat + f.2.2.toNat) % 2 ^ 32
        ∧ AddFlags t.sr (readReg s dst) f.2.1 f.2.2

/-- R363, R364: SUB and SBC. Rests on the spec's decision D9. -/
def Obligations.SubtractInstructions : Prop :=
  ∀ (s : State) (dst src : Reg),
    ∀ f ∈ [(Instr.sub dst src, false), (Instr.sbc dst src, s.sr.c)],
      ∃ t v, exec f.1 s = .next t ∧ WritesReg s t dst v
        ∧ (v.toNat : Int) = ((readReg s dst).toNat - (srcImm s src).toNat - f.2.toNat : Int) % 2 ^ 32
        ∧ SubFlags t.sr (readReg s dst) (srcImm s src) f.2

/-- R368, R370: CMP and CMPQ write C, Z, S and V and no register. Rests on the spec's decisions D8 and
D9. -/
def Obligations.CompareInstructions : Prop :=
  ∀ (s : State) (dst src : Reg) (imm : BitVec 5),
    ∀ f ∈ [(Instr.cmp dst src, srcImm s src), (Instr.cmpq dst imm, imm.signExtend 32)],
      ∃ t, exec f.1 s = .next t ∧ WritesSpecial s t s.spr ∧ SubFlags t.sr (readReg s dst) f.2 false

/-- R365, R366, R367, R375, R395: AND, OR, XOR, NOT and TST write Z and S and leave C and V. Rests on the
spec's decisions D9 and D57. -/
def Obligations.LogicInstructions : Prop :=
  ∀ (s : State) (dst src : Reg),
    (∀ f ∈ [(Instr.and dst src, readReg s dst &&& srcImm s src),
        (Instr.or dst src, readReg s dst ||| srcImm s src),
        (Instr.xor dst src, readReg s dst ^^^ srcImm s src), (Instr.not dst, ~~~readReg s dst)],
      ∃ t, exec f.1 s = .next t ∧ WritesReg s t dst f.2 ∧ NzFlags t.sr f.2
        ∧ t.sr.c = s.sr.c ∧ t.sr.v = s.sr.v)
    ∧ ∃ t, exec (.tst dst src) s = .next t ∧ WritesSpecial s t s.spr
        ∧ NzFlags t.sr (readReg s dst &&& srcImm s src) ∧ t.sr.c = s.sr.c ∧ t.sr.v = s.sr.v

/-- R371 to R374: the eight shift forms by every amount: for n > 0 C is the last bit out, for n = 0 the
result is the operand and nothing is said of C; V is left. Rests on the spec's decisions D9 and D10. -/
def Obligations.ShiftInstructions : Prop :=
  ∀ (s : State) (dst r : Reg) (amt : BitVec 5),
    ∀ f ∈ [(Instr.asrImm dst amt, Instr.lsrImm dst amt, Instr.aslImm dst amt, Instr.sslImm dst amt, amt.toNat),
        (Instr.asrReg dst r, Instr.lsrReg dst r, Instr.aslReg dst r, Instr.sslReg dst r,
          (readReg s r).toNat % 32)],
      let n := f.2.2.2.2
      let a := readReg s dst
      (∃ t v, exec f.1 s = .next t ∧ WritesReg s t dst v ∧ v.toInt = a.toInt / 2 ^ n
        ∧ NzFlags t.sr v ∧ t.sr.v = s.sr.v ∧ (0 < n → t.sr.c = a.getLsbD (n - 1)))
      ∧ (∃ t v, exec f.2.1 s = .next t ∧ WritesReg s t dst v ∧ v.toNat = a.toNat / 2 ^ n
        ∧ NzFlags t.sr v ∧ t.sr.v = s.sr.v ∧ (0 < n → t.sr.c = a.getLsbD (n - 1)))
      ∧ (∃ t v, exec f.2.2.1 s = .next t ∧ WritesReg s t dst v ∧ v.toNat = a.toNat * 2 ^ n % 2 ^ 32
        ∧ NzFlags t.sr v ∧ t.sr.v = s.sr.v ∧ (0 < n → t.sr.c = a.getLsbD (32 - n)))
      ∧ (∃ t v, exec f.2.2.2.1 s = .next t ∧ WritesReg s t dst v
        ∧ v.toNat = (a.toNat * 2 ^ n + (2 ^ n - 1)) % 2 ^ 32
        ∧ NzFlags t.sr v ∧ t.sr.v = s.sr.v ∧ (0 < n → t.sr.c = a.getLsbD (32 - n)))

/-- R380 to R382, R384: MUL and MULU leave the exact 64-bit product in MH:ML and no flag changed; what else
they write is `MUL_RD_RESULT`. MAC adds the signed product to MH:ML, modulo 2^64. Rests on the spec's
decisions D12 and D57. -/
def Obligations.MultiplyInstructions : Prop :=
  ∀ (s : State) (d : BitVec 3) (src src2 : Reg),
    let a := readReg s (evenReg d)
    let b := srcImm s src
    (∃ t, exec (.mac src2 src) s = .next t
      ∧ ((t.spr.mh ++ t.spr.ml : BitVec 64).toNat : Int)
        = ((s.spr.mh ++ s.spr.ml : BitVec 64).toNat + (readReg s src2).toInt * b.toInt : Int) % 2 ^ 64
      ∧ WritesSpecial s t { s.spr with mh := t.spr.mh, ml := t.spr.ml } ∧ KeepsFlags s t)
    ∧ ∀ f ∈ [(Instr.mul d src, a.toInt * b.toInt), (Instr.mulu d src, (a.toNat * b.toNat : Int))],
      ∃ t, exec f.1 s = .next t ∧ ((t.spr.mh ++ t.spr.ml : BitVec 64).toNat : Int) = f.2 % 2 ^ 64
        ∧ t.spr = { s.spr with mh := t.spr.mh, ml := t.spr.ml }
        ∧ KeepsGprs s t [evenReg d, oddReg d] ∧ KeepsFlags s t ∧ KeepsRest s t ∧ UnitEnds t (nextAddr s)
        ∧ (s.cfg.mulRdResult = .unchanged → KeepsGprs s t [])
        ∧ (s.cfg.mulRdResult = .low32 → KeepsGprs s t [evenReg d] ∧ readReg t (evenReg d) = t.spr.ml)
        ∧ (s.cfg.mulRdResult = .pair →
          readReg t (evenReg d) = t.spr.ml ∧ readReg t (oddReg d) = t.spr.mh)

/-- R390 to R394, R396, R397: EXTB, EXTS, CVB, CVS and NEG, of whose flags nothing is said; CNT0 and CNT1
count the leading bits: those counted are of the kind, the next one is not. Rests on the spec's decisions D24
to D27. -/
def Obligations.ExtensionInstructions : Prop :=
  ∀ (s : State) (dst : Reg),
    (∀ f ∈ [(Instr.cnt0 dst, false), (Instr.cnt1 dst, true)],
      ∃ t v, exec f.1 s = .next t ∧ WritesReg s t dst v ∧ v.toNat ≤ 32
        ∧ (∀ i < 32, 32 ≤ i + v.toNat → (readReg s dst).getLsbD i = f.2)
        ∧ (v.toNat < 32 → (readReg s dst).getLsbD (31 - v.toNat) = !f.2)
        ∧ (t.sr.z = true ↔ v.toNat = 0) ∧ t.sr.c = s.sr.c ∧ t.sr.s = s.sr.s ∧ t.sr.v = s.sr.v) ∧
    (∃ t v, exec (.neg dst) s = .next t ∧ WritesReg s t dst v
      ∧ (v.toNat : Int) = (-(readReg s dst).toNat : Int) % 2 ^ 32)
    ∧ ∀ f ∈ [(Instr.extb dst, Instr.cvb dst, 8), (Instr.exts dst, Instr.cvs dst, 16)],
      let a := readReg s dst
      (∃ t v, exec f.1 s = .next t ∧ WritesReg s t dst v ∧ v.toInt = (a.setWidth f.2.2).toInt
        ∧ NzFlags t.sr v ∧ t.sr.c = s.sr.c ∧ t.sr.v = s.sr.v)
      ∧ ∃ t v, exec f.2.1 s = .next t ∧ WritesReg s t dst v
        ∧ (s.cfg.cvtRule = .zext → v.toNat = a.toNat % 2 ^ f.2.2)
        ∧ (s.cfg.cvtRule = .saturate →
          v.toInt = Max.max (-2 ^ (f.2.2 - 1)) (Min.min (2 ^ (f.2.2 - 1) - 1) a.toInt))
        ∧ NzFlags t.sr v ∧ t.sr.c = s.sr.c ∧ t.sr.v = s.sr.v

/-! ### Branches -/

/-- 42_branch.md R331 to R345: the fourteen conditional jumps. Rests on the spec's decision D5. -/
def Obligations.ConditionalJumps : Prop :=
  ∀ (s : State) (off : BitVec 8),
    ∀ f ∈ [(Instr.jnv off, s.sr.v = false), (Instr.jv off, s.sr.v = true), (Instr.jp off, s.sr.s = false),
        (Instr.jm off, s.sr.s = true), (Instr.jnz off, s.sr.z = false), (Instr.jz off, s.sr.z = true),
        (Instr.jnc off, s.sr.c = false), (Instr.jc off, s.sr.c = true),
        (Instr.jgt off, s.sr.z = false ∧ s.sr.s = s.sr.v), (Instr.jlt off, s.sr.s ≠ s.sr.v),
        (Instr.jge off, s.sr.s = s.sr.v), (Instr.jle off, s.sr.z = true ∨ s.sr.s ≠ s.sr.v),
        (Instr.jhi off, s.sr.c = false ∧ s.sr.z = false), (Instr.jls off, s.sr.c = true ∨ s.sr.z = true)],
      ∃ t, exec f.1 s = .next t ∧ (f.2 → UnitEnds t (nextAddr s + branchDisp s off))
        ∧ (¬f.2 → UnitEnds t (nextAddr s))
        ∧ KeepsGprs s t [] ∧ t.spr = s.spr ∧ KeepsFlags s t ∧ KeepsRest s t

/-- R331, 43_arith_logic.md R368: after `CMP src, dst` the conditional jumps are the comparisons of the
destination with the source operand. Rests on the spec's decisions D5 and D9. -/
def Obligations.CompareThenJump : Prop :=
  ∀ (s : State) (dst src : Reg) (off : BitVec 8),
    let a := readReg s dst
    let b := srcImm s src
    ∃ t, exec (.cmp dst src) s = .next t ∧
      ∀ f ∈ [(Instr.jnz off, a ≠ b), (Instr.jz off, a = b),
          (Instr.jnc off, b.toNat ≤ a.toNat), (Instr.jc off, a.toNat < b.toNat),
          (Instr.jgt off, b.toInt < a.toInt), (Instr.jlt off, a.toInt < b.toInt),
          (Instr.jge off, b.toInt ≤ a.toInt), (Instr.jle off, a.toInt ≤ b.toInt),
          (Instr.jhi off, b.toNat < a.toNat), (Instr.jls off, a.toNat ≤ b.toNat)],
        ∃ u, exec f.1 t = .next u ∧ (f.2 → UnitEnds u (nextAddr t + branchDisp t off))
          ∧ (¬f.2 → UnitEnds u (nextAddr t))

/-- R346, R347: JMP and JAL; JAL alone writes LR, with `next`. Rests on the spec's decisions D5 and D21. -/
def Obligations.RelativeJumps : Prop :=
  ∀ (s : State) (off : BitVec 8),
    ∀ f ∈ [(Instr.jmp off, s.spr), (Instr.jal off, { s.spr with lr := nextAddr s &&& 0xFFFFFFFE })],
      ∃ t, exec f.1 s = .next t ∧ UnitEnds t (nextAddr s + branchDisp s off) ∧ t.spr = f.2
        ∧ KeepsGprs s t [] ∧ KeepsFlags s t ∧ KeepsRest s t

/-- R348, R349, R350: JR, JALR and JPLR, and their halfwords; JALR alone writes LR. A LERI before them changes
nothing of this. That LR keeps bit 0 clear is 10_state.md R32. -/
def Obligations.RegisterJumps : Prop :=
  ∀ (s : State) (src : Reg),
    (decode (0xE080 ||| src.setWidth 16) = .jr src ∧ decode (0xE090 ||| src.setWidth 16) = .jalr src
      ∧ decode 0xE0A0 = .jplr 0)
    ∧ ∀ f ∈ [(Instr.jr src, readReg s src, s.spr),
        (Instr.jalr src, readReg s src, { s.spr with lr := nextAddr s &&& 0xFFFFFFFE }),
        (Instr.jplr 0, s.spr.lr, s.spr)],
      ∃ t, exec f.1 s = .next t ∧ t.pc = f.2.1 &&& 0xFFFFFFFE ∧ t.spr = f.2.2 ∧ t.leris = 0
        ∧ t.sr = { s.sr with e := false } ∧ KeepsGprs s t [] ∧ KeepsRest s t

/-! ### Memory instructions -/

/-- 40_load_store.md R250 to R263, R270, R271: the ten loads, from whatever answers the access: RAM or
scratch-pad storage, whose bytes are taken in the order of SR.Endian, a device, or an open bus. Nothing but
`dst` is written, every byte of memory stays, and of the system coprocessor at most dirty and accessed bits
change. The address's offset rests on the spec's decision D4, big-endian order on its general knowledge
(20_memory.md R100; log 27); that device inputs are a list is log 9, that they are cut to the size log 25. -/
def Obligations.LoadInstructions : Prop :=
  ∀ (s : State) (dst idx : Reg) (o4 : BitVec 4) (o3 : BitVec 3) (o7 : BitVec 7),
    ∀ f ∈ ([(.ldIdx dst o4 idx, .word, false, indexAddr s idx o4 .word),
        (.ldbIdx dst o3 idx, .byte, true, indexAddr s idx o3 .byte),
        (.ldsIdx dst o3 idx, .half, true, indexAddr s idx o3 .half),
        (.ldbuIdx dst o3 idx, .byte, false, indexAddr s idx o3 .byte),
        (.ldsuIdx dst o3 idx, .half, false, indexAddr s idx o3 .half),
        (.ldSp dst o7, .word, false, spAddr s o7 .word), (.ldbSp o3 dst, .byte, true, spAddr s o3 .byte),
        (.ldsSp o3 dst, .half, true, spAddr s o3 .half), (.ldbuSp o3 dst, .byte, false, spAddr s o3 .byte),
        (.ldsuSp o3 dst, .half, false, spAddr s o3 .half)] : List (Instr × AccessSize × Bool × Word)),
      ∀ g u, locate .read (isUser s) f.2.1 f.2.2.2 s = .ok g u →
        ∃ t, exec f.1 s = .next t
          ∧ readReg t dst = extended f.2.1 f.2.2.1 (readTarget f.2.1 g u).1 ∧ KeepsGprs s t [dst]
          ∧ AnswersRead s g (sizeBytes f.2.1) (readTarget f.2.1 g u).1 t.env
          ∧ t.spr = s.spr ∧ KeepsFlags s t ∧ KeepsAround s t ∧ KeepsMemory s t ∧ t.stale = s.stale
          ∧ t.events = s.events ∧ t.env = (readTarget f.2.1 g u).2.env
          ∧ t.scp = u.scp ∧ OnlyTlbTouched s u ∧ UnitEnds t (nextAddr s)

/-- R251, R254, R255, R259, R264, R265: the six stores: into storage the bytes of the source register in the
byte order, and no other byte of memory; to a device an output event and no byte; to an open bus
nothing. The address's offset rests on the spec's decision D4. -/
def Obligations.StoreInstructions : Prop :=
  ∀ (s : State) (src idx : Reg) (o4 : BitVec 4) (o3 : BitVec 3) (o7 : BitVec 7),
    ∀ f ∈ ([(.stIdx src o4 idx, .word, indexAddr s idx o4 .word),
        (.stbIdx src o3 idx, .byte, indexAddr s idx o3 .byte),
        (.stsIdx src o3 idx, .half, indexAddr s idx o3 .half), (.stSp src o7, .word, spAddr s o7 .word),
        (.stbSp o3 src, .byte, spAddr s o3 .byte), (.stsSp o3 src, .half, spAddr s o3 .half)] :
          List (Instr × AccessSize × Word)),
      ∀ g u, locate .write (isUser s) f.2.1 f.2.2 s = .ok g u →
        ∃ t, exec f.1 s = .next t
          ∧ (∀ l cc, g = .storage l cc → KeepsMemoryOutside s t l (sizeBytes f.2.1) ∧ t.events = s.events
            ∧ ∀ k < sizeBytes f.2.1, t.byteAt { l with addr := l.addr + k } =
              storedByte s.sr.endian (sizeBytes f.2.1) k (readReg s src))
          ∧ (∀ pa, g = .device pa → KeepsMemory s t ∧ t.stale = s.stale
            ∧ ∃ v, t.events = s.events ++ [.deviceWrite pa (sizeBytes f.2.1) v]
              ∧ v.toNat = (readReg s src).toNat % 2 ^ (8 * sizeBytes f.2.1))
          ∧ (g = .openBus → KeepsMemory s t ∧ t.stale = s.stale ∧ t.events = s.events)
          ∧ KeepsGprs s t [] ∧ t.spr = s.spr ∧ KeepsFlags s t ∧ KeepsAround s t ∧ t.env = s.env
          ∧ t.scp = u.scp ∧ OnlyTlbTouched s u ∧ UnitEnds t (nextAddr s)

/-- 20_memory.md R103: a load or store whose address is not suitably aligned for its size is not performed:
the System Coprocessor exception with pending code 0011 is taken, in the state in which nothing else has
changed. So it is for every data access, whichever instruction makes it, and for no aligned one; a byte
access is always aligned. SCPR15[6] reports that nothing corrects a misaligned access. Rests on the spec's
decisions D4 (the address's offset), D16 (that `pc` is saved) and D53 (that alignment is checked first). -/
def Obligations.MisalignedAccessRaises : Prop :=
  ∀ (s : State) (r idx : Reg) (o4 : BitVec 4) (o3 : BitVec 3) (o7 : BitVec 7),
    (∀ f ∈ ([(.ldIdx r o4 idx, 4, indexAddr s idx o4 .word), (.stIdx r o4 idx, 4, indexAddr s idx o4 .word),
        (.ldSp r o7, 4, spAddr s o7 .word), (.stSp r o7, 4, spAddr s o7 .word),
        (.ldsIdx r o3 idx, 2, indexAddr s idx o3 .half), (.ldsuIdx r o3 idx, 2, indexAddr s idx o3 .half),
        (.stsIdx r o3 idx, 2, indexAddr s idx o3 .half), (.ldsSp o3 r, 2, spAddr s o3 .half),
        (.ldsuSp o3 r, 2, spAddr s o3 .half), (.stsSp o3 r, 2, spAddr s o3 .half)] : List (Instr × Nat × Word)),
      f.2.2.toNat % f.2.1 ≠ 0 → exec f.1 s = exceptionEntry 0x20 s.pc .normal
        { s with scp := { s.scp with pendingCode := 0b0011, pending := true } })
    ∧ (∀ (kind : AccessKind) (user : Bool) (size : AccessSize) (va : Word), kind ≠ .fetch →
      va.toNat % sizeBytes size ≠ 0 → locate kind user size va s = .raise 0x20
        { s with scp := { s.scp with pendingCode := 0b0011, pending := true } })
    ∧ (∀ (kind : AccessKind) (user : Bool) (size : AccessSize) (va : Word) (off : Word) (u : State),
      va.toNat % sizeBytes size = 0 → locate kind user size va s = .raise off u →
      u.scp.pending = s.scp.pending ∧ u.scp.pendingCode = s.scp.pendingCode ∨ u.scp.pendingCode ≠ 0b0011)
    ∧ (∀ va : Word, va.toNat % sizeBytes .byte = 0) ∧ (statusWord s).getLsbD 6 = false

/-- R272, R280, R281, R532, 20_memory.md R110: a load or store, LDAU and STAU among them, whose access raises
takes that exception with `pc` saved, and up to the entry no register, no counter register and no byte of
memory has changed. Rests on the spec's decisions D4, D16, D23 and D59. -/
def Obligations.FaultingAccessChangesNothing : Prop :=
  ∀ (s : State) (r idx : Reg) (o4 : BitVec 4) (o3 : BitVec 3) (o7 : BitVec 7) (j : BitVec 2) (c : BitVec 1),
    let cr := if c = 0 then s.spr.cr0 else s.spr.cr1
    let counted := readReg s (s.cfg.idxMap[j.toNat]'j.isLt) + (cr.extractLsb' 0 12).setWidth 32
    (∀ f ∈ ([(.ldIdx r o4 idx, .word, indexAddr s idx o4 .word),
        (.ldbIdx r o3 idx, .byte, indexAddr s idx o3 .byte),
        (.ldsIdx r o3 idx, .half, indexAddr s idx o3 .half),
        (.ldbuIdx r o3 idx, .byte, indexAddr s idx o3 .byte),
        (.ldsuIdx r o3 idx, .half, indexAddr s idx o3 .half), (.ldSp r o7, .word, spAddr s o7 .word),
        (.ldbSp o3 r, .byte, spAddr s o3 .byte), (.ldsSp o3 r, .half, spAddr s o3 .half),
        (.ldbuSp o3 r, .byte, spAddr s o3 .byte), (.ldsuSp o3 r, .half, spAddr s o3 .half),
        (.ldau j c r, .word, counted)] : List (Instr × AccessSize × Word)),
      ∀ off u, locate .read (isUser s) f.2.1 f.2.2 s = .raise off u →
        exec f.1 s = exceptionEntry off s.pc .normal u ∧ u.gpr = s.gpr ∧ u.spr = s.spr ∧ u.sr = s.sr
          ∧ KeepsMemory s u ∧ (off = 0x20 ∨ off = 0x10))
    ∧ ∀ f ∈ ([(.stIdx r o4 idx, .word, indexAddr s idx o4 .word),
        (.stbIdx r o3 idx, .byte, indexAddr s idx o3 .byte),
        (.stsIdx r o3 idx, .half, indexAddr s idx o3 .half), (.stSp r o7, .word, spAddr s o7 .word),
        (.stbSp o3 r, .byte, spAddr s o3 .byte), (.stsSp o3 r, .half, spAddr s o3 .half),
        (.stau j c r, .word, counted)] : List (Instr × AccessSize × Word)),
      ∀ off u, locate .write (isUser s) f.2.1 f.2.2 s = .raise off u →
        exec f.1 s = exceptionEntry off s.pc .normal u ∧ u.gpr = s.gpr ∧ u.spr = s.spr ∧ u.sr = s.sr
          ∧ KeepsMemory s u ∧ (off = 0x20 ∨ off = 0x10)

/-- R280, R281: LDAU and STAU use the address before the counter steps; the counter register and, where
the mode writes it, Z are what `CRStep`, default or supplied, gives; LDAU's word is that of the storage, in
the order of SR.Endian, or of the device or open bus, where the access ends. Rests on the spec's decision
D23; that they complete in the modes and increments for which R282's default refuses is log 11, and the list
of device inputs is log 9. -/
def Obligations.AutoIncrementInstructions : Prop :=
  ∀ (s : State) (j : BitVec 2) (c : BitVec 1) (r : Reg),
    let cr := if c = 0 then s.spr.cr0 else s.spr.cr1
    let stepped := counterStep s.cfg.crStep cr
    let spr := if c = 0 then { s.spr with cr0 := stepped.1 } else { s.spr with cr1 := stepped.1 }
    let ea := readReg s (s.cfg.idxMap[j.toNat]'j.isLt) + (cr.extractLsb' 0 12).setWidth 32
    (∀ g u, locate .read (isUser s) .word ea s = .ok g u →
      ∃ t, exec (.ldau j c r) s = .next t ∧ readReg t r = (readTarget .word g u).1 ∧ KeepsGprs s t [r]
        ∧ AnswersRead s g 4 (readTarget .word g u).1 t.env ∧ t.spr = spr ∧ t.sr.z = stepped.2.getD s.sr.z
        ∧ t.sr.c = s.sr.c ∧ t.sr.s = s.sr.s ∧ t.sr.v = s.sr.v ∧ KeepsAround s t ∧ KeepsMemory s t
        ∧ t.scp = u.scp ∧ t.stale = s.stale ∧ t.events = s.events ∧ t.env = (readTarget .word g u).2.env
        ∧ OnlyTlbTouched s u ∧ UnitEnds t (nextAddr s))
    ∧ ∀ g u, locate .write (isUser s) .word ea s = .ok g u →
      ∃ t, exec (.stau j c r) s = .next t ∧ KeepsGprs s t [] ∧ t.spr = spr
        ∧ t.sr.z = stepped.2.getD s.sr.z
        ∧ t.sr.c = s.sr.c ∧ t.sr.s = s.sr.s ∧ t.sr.v = s.sr.v ∧ KeepsAround s t ∧ t.env = s.env
        ∧ t.scp = u.scp ∧ OnlyTlbTouched s u
        ∧ (∀ l cc, g = .storage l cc → KeepsMemoryOutside s t l 4 ∧ t.events = s.events
          ∧ ∀ k < 4, t.byteAt { l with addr := l.addr + k } = storedByte s.sr.endian 4 k (readReg s r))
        ∧ (∀ pa, g = .device pa → KeepsMemory s t ∧ t.events = s.events ++ [.deviceWrite pa 4 (readReg s r)])
        ∧ (g = .openBus → KeepsMemory s t ∧ t.events = s.events)
        ∧ UnitEnds t (nextAddr s)

/-- R282: the default `CRStep` in the modes it gives a step, for every end offset or mask, and what that is
for a mask of the low bits; in every mode the bits above the counter stay. Rests on the spec's decision D23; the other modes are log 11, Z in mode 0101 is log 40. -/
def Obligations.CounterStepModes : Prop :=
  ∀ cr : Word,
    let cnt := cr.toNat % 4096
    let em := cr.toNat / 4096 % 4096
    let mode := cr.toNat / 2 ^ 28
    let r := counterStep .default cr
    r.1.toNat / 4096 = cr.toNat / 4096
      ∧ (cr.toNat / 2 ^ 24 % 16 = 0 →
        (mode = 0 → r.1.toNat % 4096 = (cnt + 4) % 4096 ∧ r.2 = none)
        ∧ (mode = 1 → r.1.toNat % 4096 = (cnt + 4) % 4096 ∧ r.2 = some (decide ((cnt + 4) % 4096 = em)))
        ∧ (mode = 4 → r.1.toNat % 4096 = (cnt &&& (4095 - em)) ||| ((cnt + 4) &&& em) ∧ r.2 = none)
        ∧ (mode = 5 → r.1.toNat % 4096 = (cnt &&& (4095 - em)) ||| ((cnt + 4) &&& em)
          ∧ r.2 = some (decide (r.1.toNat % 4096 &&& em = 0)))
        ∧ (∀ p ≤ 12, em = 2 ^ p - 1 →
          (mode = 4 → r.1.toNat % 4096 = cnt / 2 ^ p * 2 ^ p + (cnt + 4) % 2 ^ p ∧ r.2 = none)
          ∧ (mode = 5 → r.1.toNat % 4096 = cnt / 2 ^ p * 2 ^ p + (cnt + 4) % 2 ^ p
            ∧ r.2 = some (decide ((cnt + 4) % 2 ^ p = 0)))))

/-- R288: PUSH of any list, in RAM reached without translation: each listed register's word at its place,
lower bits lower, SP below them, nothing else of memory changed. For SR, PC and ER what is pushed rests
on the spec's decisions D13 and D14; that CR0 and CR1 are in the list at all is log 41. -/
def Obligations.PushStoresWords : Prop :=
  ∀ (s : State) (list : BitVec 8),
    let n := (listBits list).length
    let bottom := readSp s - 4 * BitVec.ofNat 32 n
    PlainStack (isUser s) bottom n s →
    ∀ f ∈ ([(.pushLo list, fun b => readReg s (0#1 ++ b)), (.pushHi list, fun b => readReg s (1#1 ++ b)),
        (.pushSpec list, fun b =>
          if b = 0 then s.spr.cr0 else if b = 1 then s.spr.cr1 else if b = 2 then s.spr.ml
          else if b = 3 then s.spr.mh else if b = 4 then 0 else if b = 5 then s.spr.lr
          else if b = 6 then nextAddr s else SR.toWord s.cfg.srLayout { s.sr with e := false })] :
            List (Instr × (BitVec 3 → Word))),
      ∃ t, exec f.1 s = .next t
        ∧ (∀ b ∈ listBits list, wordAt t (busLoc (bottom + 4 * BitVec.ofNat 32 (rankIn list b))) = f.2 b)
        ∧ (∀ m, (∀ k < n, Outside (busLoc (bottom + 4 * BitVec.ofNat 32 k)) 4 m) → t.byteAt m = s.byteAt m)
        ∧ (isUser s = true → t.spr = { s.spr with usp := bottom })
        ∧ (isUser s = false → t.spr = { s.spr with ssp := bottom })
        ∧ KeepsGprs s t [] ∧ KeepsFlags s t ∧ KeepsAround s t ∧ KeepsScp s t ∧ t.env = s.env
        ∧ t.events = s.events ∧ UnitEnds t (nextAddr s)

/-- R288: PUSH over any kind of memory: when every word's write succeeds the stack pointer of the mode is
lowered, the unit ends, and nothing else is different from what the writes left, which is memory, output
events, what is stale and TLB entries; when one raises, its exception is taken with SP and every register
as they were. Rests on the spec's decisions D13 and D16. -/
def Obligations.PushCompletesOrRestarts : Prop :=
  ∀ (s : State) (list : BitVec 8),
    ∀ f ∈ ([(.pushLo list, fun b => readReg s (0#1 ++ b)), (.pushHi list, fun b => readReg s (1#1 ++ b)),
        (.pushSpec list, specialValue s)] : List (Instr × (BitVec 3 → Word))),
      let words := pushWords (readSp s) ((listBits list).reverse.map f.2) s
      let sp := (readSp s - 4 * BitVec.ofNat 32 (listBits list).length) &&& 0xFFFFFFFC
      (∀ u, words = .ok () u → u.gpr = s.gpr ∧ u.spr = s.spr ∧ u.sr = s.sr ∧ u.env = s.env ∧ KeepsAround s u
        ∧ (∃ tlb, u.scp = { s.scp with tlb := tlb }) ∧ ∃ t, exec f.1 s = .next t ∧ UnitEnds t (nextAddr s)
        ∧ t = { u with
            pc := t.pc, leris := 0, sr := { u.sr with e := false }
            spr := if isUser s then { u.spr with usp := sp } else { u.spr with ssp := sp } })
      ∧ ∀ off u, words = .raise off u → exec f.1 s = exceptionEntry off s.pc .normal u
        ∧ u.spr = s.spr ∧ u.gpr = s.gpr ∧ u.sr = s.sr

/-- R290: POP of any list of general registers: in RAM reached without translation each register's word
from its place, SP past them, memory as it was; over any kind of memory, when every read succeeds each
register the word read for it, and nothing else different from what the reads left but SP; when one
raises, its exception is taken with SP and every register as they were. Rests on the spec's decisions D13
and D16. -/
def Obligations.PopLoadsRegisters : Prop :=
  ∀ (s : State) (list : BitVec 8),
    let n := (listBits list).length
    let sp := (readSp s + 4 * BitVec.ofNat 32 n) &&& 0xFFFFFFFC
    ∀ f ∈ ([(.popLo list, fun b => 0#1 ++ b), (.popHi list, fun b => 1#1 ++ b)] :
        List (Instr × (BitVec 3 → Reg))),
      (PlainStack (isUser s) (readSp s) n s → ∃ t, exec f.1 s = .next t
        ∧ (∀ b ∈ listBits list, readReg t (f.2 b)
          = wordAt s (busLoc (readSp s + 4 * BitVec.ofNat 32 (rankIn list b))))
        ∧ KeepsGprs s t ((listBits list).map f.2)
        ∧ (isUser s = true → t.spr = { s.spr with usp := readSp s + 4 * BitVec.ofNat 32 n })
        ∧ (isUser s = false → t.spr = { s.spr with ssp := readSp s + 4 * BitVec.ofNat 32 n })
        ∧ KeepsFlags s t ∧ KeepsRest s t ∧ UnitEnds t (nextAddr s))
      ∧ (∀ ws u, popWords (readSp s) n s = .ok ws u → u.gpr = s.gpr ∧ u.spr = s.spr ∧ u.sr = s.sr
        ∧ KeepsAround s u ∧ KeepsMemory s u ∧ u.stale = s.stale ∧ u.events = s.events
        ∧ (∃ tlb, u.scp = { s.scp with tlb := tlb }) ∧ ∃ t, exec f.1 s = .next t ∧ UnitEnds t (nextAddr s)
        ∧ (∀ b ∈ listBits list, ws[rankIn list b]? = some (readReg t (f.2 b)))
        ∧ KeepsGprs s t ((listBits list).map f.2)
        ∧ t = { u with
            gpr := t.gpr, pc := t.pc, leris := 0, sr := { u.sr with e := false }
            spr := if isUser s then { u.spr with usp := sp } else { u.spr with ssp := sp } })
      ∧ ∀ off u, popWords (readSp s) n s = .raise off u → exec f.1 s = exceptionEntry off s.pc .normal u
        ∧ u.gpr = s.gpr ∧ u.spr = s.spr ∧ u.sr = s.sr ∧ KeepsMemory s u

/-- R290, 60_exceptions.md R535: POP of the special list: CR0, CR1, ML and MH loaded, LR with bit 0 clear,
ER's word dropped, SR but for its read-only bits, and PC as a jump; with PC and SR this is the return from
an exception. First in RAM reached without translation; then over any kind of memory, by the words the
reads gave; and when a read raises, its exception is taken with SP and every register as they were.
Supervisor mode, or no SR in the list. Rests on the spec's decisions D2, D13, D16 and D21; that CR0 and CR1
are in the list at all is log 41. -/
def Obligations.PopLoadsSpecialRegisters : Prop :=
  ∀ (s : State) (list : BitVec 8), isUser s = false ∨ list.getLsbD 7 = false →
    let n := (listBits list).length
    let word := fun b : BitVec 3 => wordAt s (busLoc (readSp s + 4 * BitVec.ofNat 32 (rankIn list b)))
    (PlainStack (isUser s) (readSp s) n s → ∃ t, exec (.popSpec list) s = .next t
      ∧ PopsSpecial s t list word ∧ (list.getLsbD 7 = true → LoadsSr s t (word 7))
      ∧ KeepsMemory s t ∧ KeepsScp s t ∧ KeepsCoprocs s t ∧ KeepsPlatform s t ∧ t.stale = s.stale)
    ∧ (∀ ws u, popWords (readSp s) n s = .ok ws u → ws.length = n ∧ ∃ t, exec (.popSpec list) s = .next t
      ∧ PopsSpecial s t list (fun b => ws.getD (rankIn list b) 0)
      ∧ (list.getLsbD 7 = true → LoadsSr s t (ws.getD (rankIn list 7) 0))
      ∧ KeepsMemory s t ∧ t.scp = u.scp ∧ (∃ tlb, u.scp = { s.scp with tlb := tlb }) ∧ KeepsCoprocs s t
      ∧ t.halted = s.halted ∧ t.lockup = s.lockup ∧ t.cfg = s.cfg ∧ t.env = u.env ∧ t.events = s.events
      ∧ t.stale = s.stale)
    ∧ ∀ off u, popWords (readSp s) n s = .raise off u →
      exec (.popSpec list) s = exceptionEntry off s.pc .normal u
        ∧ u.gpr = s.gpr ∧ u.spr = s.spr ∧ u.sr = s.sr ∧ KeepsMemory s u

/-! ### Exceptions -/

/-- 60_exceptions.md R522, R523, R530, R531: an entry whose stack and vector lie in plain RAM: SR and PC on the
supervisor stack, SSP below them, supervisor mode with INT and E clear and NMI clear for an NMI, not
halted, pc at the handler; nothing else. Rests on the spec's decision D15. -/
def Obligations.ExceptionEntryEffect : Prop :=
  ∀ (s : State) (off savedPc : Word) (kind : EntryKind),
    PlainStack false (s.spr.ssp - 8) 2 s → PlainRam false (vectorAddr off s) s →
    (vectorAddr off s).extractLsb' 0 2 = 0 →
    (off ∈ s.cfg.fixedVectors → vectorAddr off s = off)
      ∧ (off ∉ s.cfg.fixedVectors → vectorAddr off s = s.scp.vectorBase + off)
      ∧ ∃ t, exceptionEntry off savedPc kind s = .next t
      ∧ wordAt t (busLoc (s.spr.ssp - 4)) = SR.toWord s.cfg.srLayout { s.sr with e := false }
      ∧ wordAt t (busLoc (s.spr.ssp - 8)) = savedPc
      ∧ (∀ m, Outside (busLoc (s.spr.ssp - 4)) 4 m → Outside (busLoc (s.spr.ssp - 8)) 4 m →
        t.byteAt m = s.byteAt m)
      ∧ t.spr = { s.spr with ssp := s.spr.ssp - 8 }
      ∧ t.sr = { s.sr with modeHi := false, modeLo := false, int := false, e := false, nmi := t.sr.nmi }
      ∧ (kind = .normal → t.sr.nmi = s.sr.nmi) ∧ (kind = .nmi → t.sr.nmi = false)
      ∧ UnitEnds t (wordAt t (busLoc (vectorAddr off s))) ∧ t.halted = false ∧ KeepsGprs s t []
      ∧ KeepsScp s t ∧ KeepsCoprocs s t ∧ t.lockup = s.lockup ∧ t.cfg = s.cfg ∧ t.env = s.env
      ∧ t.events = s.events

/-- R560, R561, R524: an entry one of whose accesses raises becomes a Double Fault: the vector word at
0x0000000C, the same frame at the same SSP; when an access of that raises too, lockup with the event
`pmu_error`. Then with the accesses given: a vector that the platform does not answer, or that has no TLB
entry, with the address and the code latched; nothing at the second word of the frame, which leaves the
first; nothing at the first. Rests on the spec's decisions D15, D37, D38 and D59. -/
def Obligations.DoubleFaultAndLockup : Prop :=
  ∀ (s : State) (off savedPc : Word) (kind : EntryKind),
    let va := vectorAddr off s
    let srWord := SR.toWord s.cfg.srLayout { s.sr with e := false }
    let entered := fun t : State => t.spr = { s.spr with ssp := s.spr.ssp - 8 } ∧ t.sr.mode = .supervisor
      ∧ t.sr.int = false ∧ t.sr.nmi = (s.sr.nmi && kind = .normal) ∧ t.halted = false
      ∧ t.lockup = s.lockup ∧ KeepsFlags s t ∧ KeepsGprs s t [] ∧ KeepsCoprocs s t ∧ t.cfg = s.cfg
    let locked := fun t : State => t.lockup = true ∧ t.pc = s.pc ∧ t.leris = 0 ∧ t.spr = s.spr
      ∧ t.sr = { s.sr with e := false } ∧ KeepsGprs s t [] ∧ KeepsCoprocs s t ∧ t.cfg = s.cfg
    (∀ o u, entryAccesses srWord savedPc va s = .raise o u →
      (∀ h w, entryAccesses srWord savedPc 0x0C u = .ok h w → ∃ t, exceptionEntry off savedPc kind s = .next t
        ∧ entered t ∧ UnitEnds t h ∧ KeepsMemory w t ∧ t.scp = w.scp ∧ t.events = w.events)
      ∧ ∀ o' w, entryAccesses srWord savedPc 0x0C u = .raise o' w → ∃ t,
        exceptionEntry off savedPc kind s = .next t ∧ locked t ∧ t.events = w.events ++ [.pmuError]
          ∧ KeepsMemory w t ∧ t.scp = w.scp)
    ∧ (PlainStack false (s.spr.ssp - 8) 2 s → PlainRam false 0x0C s → va.extractLsb' 0 2 = 0 →
      ∀ scp, (NoMemoryAt va s ∧ scp = { s.scp with dbusError := va })
        ∨ (TlbMissAt va s ∧ scp = { s.scp with dtlbMiss := va, pendingCode := 0b0101, pending := true }) →
      ∃ t, exceptionEntry off savedPc kind s = .next t ∧ entered t
        ∧ wordAt t (busLoc (s.spr.ssp - 4)) = srWord ∧ wordAt t (busLoc (s.spr.ssp - 8)) = savedPc
        ∧ (∀ m, Outside (busLoc (s.spr.ssp - 4)) 4 m → Outside (busLoc (s.spr.ssp - 8)) 4 m →
          t.byteAt m = s.byteAt m)
        ∧ UnitEnds t (wordAt t (busLoc 0x0C)) ∧ t.scp = scp ∧ t.events = s.events)
    ∧ (s.spr.ssp.extractLsb' 0 2 = 0 → PlainRam false (s.spr.ssp - 4) s → NoMemoryAt (s.spr.ssp - 8) s →
      ∃ t, exceptionEntry off savedPc kind s = .next t ∧ locked t ∧ t.events = s.events ++ [.pmuError]
        ∧ wordAt t (busLoc (s.spr.ssp - 4)) = srWord ∧ KeepsMemoryOutside s t (busLoc (s.spr.ssp - 4)) 4
        ∧ t.scp = { s.scp with dbusError := s.spr.ssp - 8 })
    ∧ (s.spr.ssp.extractLsb' 0 2 = 0 → NoMemoryAt (s.spr.ssp - 4) s →
      ∃ t, exceptionEntry off savedPc kind s = .next t ∧ locked t ∧ t.events = s.events ++ [.pmuError]
        ∧ KeepsMemory s t ∧ t.scp = { s.scp with dbusError := s.spr.ssp - 4 })

/-- 46_system.md R492, 60_exceptions.md R530 to R535: SWI from either mode, then the handler's
`pop %pc, %sr` at once, comes back to the instruction after the SWI with the status register, every
register, both stack pointers and every byte outside the frame as they were. Rests on the spec's decisions
D13 to D16. -/
def Obligations.SwiThenReturnRestores : Prop :=
  ∀ (n : BitVec 4) (s : State), SrLayout.wf s.cfg.srLayout = true → s.sr.modeLo = false →
    PlainStack false (s.spr.ssp - 8) 2 s → PlainRam false (vectorAddr (0x40 + 4 * n.setWidth 32) s) s →
    (vectorAddr (0x40 + 4 * n.setWidth 32) s).extractLsb' 0 2 = 0 →
    ∃ t u, exec (.swi n) s = .next t ∧ t.sr.mode = .supervisor ∧ exec (.popSpec 0xC0) t = .next u
      ∧ UnitEnds u (nextAddr s) ∧ u.sr = { s.sr with e := false } ∧ u.spr = s.spr ∧ KeepsGprs s u []
      ∧ KeepsScp s u ∧ KeepsCoprocs s u
      ∧ ∀ m, Outside (busLoc (s.spr.ssp - 4)) 4 m → Outside (busLoc (s.spr.ssp - 8)) 4 m →
        u.byteAt m = s.byteAt m

/-- R492, R532: SWI n is an entry at vector offset 0x40 + 4n with `next` saved, in either mode and
whatever the enables are; where stack and vector are plain RAM it completes. Rests on the spec's decision
D16. -/
def Obligations.SoftwareInterrupt : Prop :=
  ∀ (n : BitVec 4) (s : State),
    exec (.swi n) s = exceptionEntry (BitVec.ofNat 32 (0x40 + 4 * n.toNat)) (nextAddr s) .normal s
      ∧ (PlainStack false (s.spr.ssp - 8) 2 s →
        PlainRam false (vectorAddr (BitVec.ofNat 32 (0x40 + 4 * n.toNat)) s) s →
        (vectorAddr (BitVec.ofNat 32 (0x40 + 4 * n.toNat)) s).extractLsb' 0 2 = 0 →
        ∃ t, exec (.swi n) s = .next t ∧ wordAt t (busLoc (s.spr.ssp - 8)) = nextAddr s
          ∧ t.sr.mode = .supervisor ∧ KeepsFlags s t ∧ KeepsGprs s t [])

/-- 30_encoding.md R206, 60_exceptions.md R551, R552: the seven reserved rows: the backup registers
latched and an entry at 0x38 with `pc` saved, which completes where stack and vector are plain RAM; with
`UDI_MODE` nop, nothing but the end of the unit. Rests on the spec's decisions D16 and D39. -/
def Obligations.ReservedEncodings : Prop :=
  ∀ (s : State) (b7 : BitVec 7) (b4 : BitVec 4) (cp : BitVec 2) (b6 : BitVec 6) (b5 : BitVec 5),
    ∀ i ∈ [Instr.reservedB780 b7, .reservedE1B0 b4, .reservedECC0 cp b6, .reservedFB80 b7,
        .reservedFB40 b6, .reservedFB20 b5, .reservedFB10 b4],
      (s.cfg.udiMode = .nop → ∃ t, exec i s = .next t ∧ WritesSpecial s t s.spr ∧ KeepsFlags s t)
      ∧ (s.cfg.udiMode = .raise → ∃ u, exec i s = exceptionEntry 0x38 s.pc .normal u
        ∧ u.scp = { s.scp with
            backupIr := encode i, backupEr := u.scp.backupEr, backupPc := nextAddr s - 2 }
        ∧ (s.sr.e = true → u.scp.backupEr = s.spr.er) ∧ u.gpr = s.gpr ∧ u.spr = s.spr ∧ u.sr = s.sr
        ∧ KeepsMemory s u
        ∧ (PlainStack false (s.spr.ssp - 8) 2 s → PlainRam false (vectorAddr 0x38 s) s →
          (vectorAddr 0x38 s).extractLsb' 0 2 = 0 →
          ∃ t, exec i s = .next t ∧ wordAt t (busLoc (s.spr.ssp - 8)) = s.pc
            ∧ t.sr.mode = .supervisor ∧ t.scp = u.scp ∧ KeepsGprs s t [] ∧ KeepsFlags s t))

/-- 45_dsp.md R440, 60_exceptions.md R553: with `DSP_EXT` false each of the 29 option instructions latches
the backup registers and takes the entry at 0x3C with `pc` saved. Rests on the spec's decisions D16 and
D32; that a LERI before MRS, ROR or ROL changes nothing of this is log 30. -/
def Obligations.UnimplementedDspInstructions : Prop :=
  ∀ (s : State) (r q : Reg) (d : BitVec 3), s.cfg.dspExt = false →
    ∀ i ∈ [Instr.mrs d r, .mfmre r, .mtmre r, .avgb d r, .avgs d r, .ror d r, .rol d r, .macb q r, .macs q r,
        .msopb q r, .msops q r, .saddb q r, .sadds q r, .sadub q r, .sadus q r, .sadd q r, .upkls d r,
        .upkhs d r, .min d r, .max d r, .abs r, .upk0lb d r, .upk0hb d r, .upk1lb d r, .upk1hb d r,
        .upk2lb d r, .upk2hb d r, .upk3lb d r, .upk3hb d r],
      ∃ u, exec i s = exceptionEntry 0x3C s.pc .normal u
        ∧ u.scp = { s.scp with
            backupIr := encode i, backupEr := u.scp.backupEr, backupPc := nextAddr s - 2 }
        ∧ (s.sr.e = true → u.scp.backupEr = s.spr.er) ∧ u.gpr = s.gpr ∧ u.spr = s.spr ∧ u.sr = s.sr
        ∧ KeepsMemory s u

/-! ### The access path -/

/-- 20_memory.md R103, R110, R113, R120 to R124, 60_exceptions.md R547, R548: an access that meets no
scratch-pad region and no translation: misaligned data raises SCP code 0011 and nothing else happens;
otherwise the one matching sub-bank, or the bank of SCPR9, gives right and cache configuration; without the
right SCP code 0000 or 0100; then the platform answers, or Bus Error with the address latched. Rests on the
spec's decisions D42, D53 (the order of the checks) and D59; that without a TLB sub-banks are consulted for a
bank whose TLB bit is set is log 47. -/
def Obligations.UntranslatedAccess : Prop :=
  ∀ (kind : AccessKind) (user : Bool) (size : AccessSize) (va : Word) (s : State),
    let raised := fun code : BitVec 4 => { s with scp := { s.scp with pendingCode := code, pending := true } }
    (bankNibble s va).toNat = s.scp.memoryBank.toNat / 16 ^ (va.toNat / 2 ^ 29) % 16
    ∧ (∀ b, subBankMatches va b = true ↔ b.valid = true ∧
        ∀ i < 20, b.size.getLsbD i = false → va.getLsbD (12 + i) = b.base.getLsbD i)
    ∧ (kind ≠ .fetch → va.toNat % sizeBytes size ≠ 0 →
      locate kind user size va s = .raise 0x20 (raised 0b0011))
    ∧ (kind = .fetch ∨ va.toNat % sizeBytes size = 0 → spmHits s va = [] →
      (bankNibble s va).getLsbD 3 = false ∨ s.cfg.tlbConfig = .none → ∀ (right : Bool) (cc : BitVec 2),
      ((∀ b ∈ s.scp.subBanks.toList, subBankMatches va b = false) ∧ right = (bankNibble s va).getLsbD 2
          ∧ cc = (bankNibble s va).extractLsb' 0 2)
        ∨ (∃ b, s.scp.subBanks.toList.filter (subBankMatches va) = [b] ∧ right = b.ar ∧ cc = b.cc) →
      (user = true → right = false → locate kind user size va s
        = .raise 0x20 (raised (if kind = .fetch then 0b0000 else 0b0100)))
      ∧ (user = false ∨ right = true →
        (regionAt s.cfg.platform va = some .ram →
          locate kind user size va s = .ok (.storage (busLoc va) cc) s)
        ∧ (regionAt s.cfg.platform va = some .device → locate kind user size va s = .ok (.device va) s)
        ∧ (regionAt s.cfg.platform va = some .openBus → locate kind user size va s = .ok .openBus s)
        ∧ (regionAt s.cfg.platform va = none → locate kind user size va s = .raise 0x10
          { s with scp := { s.scp with
              ibusError := if kind = .fetch then va else s.scp.ibusError
              dbusError := if kind = .fetch then s.scp.dbusError else va } })))

/-- R130 to R135, R142: an access in a bank with translation: which entries match, the miss, the write to
a read-only page before the missing right, each with the address latched, and the hit: the physical
address, the dirty and accessed bits, and what the platform answers there. Rests on the spec's decisions
D45, D53 (the order of the checks) and D59; that the bits stay set when the platform answers with Bus Error
is log 18. -/
def Obligations.TranslatedAccess : Prop :=
  ∀ (kind : AccessKind) (user : Bool) (size : AccessSize) (va : Word) (s : State),
    let missed := fun code : BitVec 4 => { s with scp := { s.scp with
      itlbMiss := if kind = .fetch then va else s.scp.itlbMiss
      dtlbMiss := if kind = .fetch then s.scp.dtlbMiss else va
      pendingCode := code, pending := true } }
    (∀ slot, slot ∈ tlbHits s kind va ↔
      slot.toNat / 128 = (if kind ≠ .fetch ∧ (s.cfg.tlbConfig = .separated64 ∨ s.cfg.tlbConfig = .separated128)
          then 1 else 0)
        ∧ slot.toNat % 32 = va.toNat / 4096 % (if s.cfg.tlbConfig = .separated64 then 16 else 32)
        ∧ (readTlb s slot).vword.getLsbD 0 = true
        ∧ (readTlb s slot).vword.toNat / 2 ^ 17 = va.toNat / 2 ^ 17
        ∧ ((readTlb s slot).vword.getLsbD 7 = true
          ∨ (readTlb s slot).vword.toNat / 256 % 256 = s.scp.pid.toNat))
    ∧ (kind = .fetch ∨ va.toNat % sizeBytes size = 0 → spmHits s va = [] →
      (bankNibble s va).getLsbD 3 = true → s.cfg.tlbConfig ≠ .none →
      (tlbHits s kind va = [] →
        locate kind user size va s = .raise 0x20 (missed (if kind = .fetch then 0b0001 else 0b0101)))
      ∧ ∀ slot, tlbHits s kind va = [slot] →
        let e := readTlb s slot
        (kind = .write → e.vword.getLsbD 6 = false →
          locate kind user size va s = .raise 0x20 (missed 0b0110))
        ∧ (kind ≠ .write ∨ e.vword.getLsbD 6 = true →
          (user = true → e.vword.getLsbD 2 = false → locate kind user size va s
            = .raise 0x20 (missed (if kind = .fetch then 0b0000 else 0b0100)))
          ∧ (user = false ∨ e.vword.getLsbD 2 = true →
            ∀ pa : Word, pa.toNat = e.ppn.toNat * 4096 + va.toNat % 4096 →
            let touched :=
              writeTlb s slot { e with vword := e.vword ||| (if kind = .write then 0x22 else 0x02) }
            (regionAt s.cfg.platform pa = some .ram → locate kind user size va s
              = .ok (.storage (busLoc pa) (e.vword.extractLsb' 3 2)) touched)
            ∧ (regionAt s.cfg.platform pa = some .device →
              locate kind user size va s = .ok (.device pa) touched)
            ∧ (regionAt s.cfg.platform pa = some .openBus →
              locate kind user size va s = .ok .openBus touched)
            ∧ (regionAt s.cfg.platform pa = none → ∃ t, locate kind user size va s = .raise 0x10 t
              ∧ t.scp = { touched.scp with
                  ibusError := if kind = .fetch then pa else s.scp.ibusError
                  dbusError := if kind = .fetch then s.scp.dbusError else pa }))))

/-- R110, R150 to R153: which scratch-pad regions an address lies in, each with its local registers (GAP
0x07n1 to 0x07n6), the configuration of GAP 0x0700 and the bank size of its side, and an access in exactly
one of them: the byte of the bank, or for a user access without the privilege SCP code 0000 or 0100 with the
side recorded in GAP 0x0700. Where in the model's storage a bank begins is log 16, that every privilege value
but 1 is supervisor-only is log 39, and that a region of an absent bank matches nothing is log 44. Rests on
the spec's decisions D47 and D53. -/
def Obligations.ScratchPadAccess : Prop :=
  ∀ (kind : AccessKind) (user : Bool) (size : AccessSize) (va : Word) (s : State),
    (∀ (n : BitVec 2) (h : SpmHit), (h ∈ spmHits s va ∧ h.space = .ispm ∧ h.bank = n ↔
        let r := spmBankAt false s n
        h = { space := .ispm, bank := n, regs := r, config := s.scp.spm.iConfig, sizeCode := s.cfg.ispmBankSize }
          ∧ s.scp.spm.iEnable = 1 ∧ r.enable = 1 ∧ s.cfg.ispmPresent.getLsbD n.toNat = true
          ∧ (s.scp.spm.iConfig ≠ 0 ∨ n = 0) ∧ r.start.toNat ≤ va.toNat ∧ va.toNat ≤ r.last.toNat)
      ∧ (h ∈ spmHits s va ∧ h.space = .dspm ∧ h.bank = n ↔
        let r := spmBankAt true s n
        h = { space := .dspm, bank := n, regs := r, config := s.scp.spm.dConfig, sizeCode := s.cfg.dspmBankSize }
          ∧ s.scp.spm.dEnable = 1 ∧ r.enable = 1 ∧ s.cfg.dspmPresent.getLsbD n.toNat = true
          ∧ (s.scp.spm.dConfig ≠ 0 ∨ n = 0) ∧ r.start.toNat ≤ va.toNat ∧ va.toNat ≤ r.last.toNat))
    ∧ (∀ h ∈ spmHits s va, h.space ≠ .bus)
    ∧ ∀ h, kind = .fetch ∨ va.toNat % sizeBytes size = 0 → spmHits s va = [h] → h.config = 0 ∨ h.config = 2 →
      h.regs.last.toNat - h.regs.start.toNat < 1024 * 2 ^ h.sizeCode.toNat →
      (user = false ∨ h.regs.privilege = 1 → locate kind user size va s = .ok (.storage
        { space := h.space, addr := h.bank.toNat * 2 ^ 26 + (va.toNat - h.regs.start.toNat) } 0) s)
      ∧ (user = true → h.regs.privilege ≠ 1 → locate kind user size va s = .raise 0x20
        { s with scp := { s.scp with
            spm := { s.scp.spm with excStatus := if kind = .fetch then 0b0010 else 0b0001 }
            pendingCode := if kind = .fetch then 0b0000 else 0b0100, pending := true } })

/-- R183: after `MVTC 0, %r11` with copy-back of a data cache line, the same with invalidation of the
instruction cache line, and SYNC, nothing of that line is stale; a fetch gets the halfword in memory or one
that a store replaced and that is not settled; and where nothing is stale, or where every store that left
something was to a region with its cache off, SYNC has followed and the fetch has its cache off, it gets
the halfword in memory. How the model records what is stale, and that configuration 01 counts as off, is
log 19. Rests on the spec's decision D31. -/
def Obligations.MaintainedCodeIsFetched : Prop :=
  (∀ (s : State) (a : Word), isUser s = false → readReg s 0 = a &&& 0xFFFFFFF0 ||| 5 →
    ∃ t u w, exec (.mvtc 0 11) s = .next t ∧ exec (.mvtc 0 11) (writeReg t 0 (a &&& 0xFFFFFFF0)) = .next u
      ∧ exec (.sync 0) u = .next w
      ∧ ∀ e ∈ w.stale, e.synced = true
        ∧ (∃ e' ∈ s.stale, e.loc = e'.loc ∧ e.old = e'.old ∧ e.uncached = e'.uncached)
        ∧ ¬(e.loc.space = .bus ∧ e.loc.addr / s.cfg.cacheLine = (a.toNat / 16 * 16) / s.cfg.cacheLine))
  ∧ ∀ (s : State) (l : Loc) (cc : BitVec 2),
    ((fetchFrom l cc s).1 = halfAt s l
        ∨ ∃ e ∈ s.stale, e.loc = l ∧ e.settled cc = false ∧ (fetchFrom l cc s).1 = e.old)
      ∧ ((∀ e ∈ s.stale, e.loc = l → e.synced = true ∧ e.uncached = true ∧ cc.getLsbD 1 = false) →
        fetchFrom l cc s = (halfAt s l, s))

/-! ### The system coprocessor and the others -/

/-- 44_coprocessor.md R425, R426, 10_state.md R45 to R72: in supervisor mode MVTC and MVFC on coprocessor 0
complete for each of the 16 registers. A write changes, of the system coprocessor, the register named, the
sub-bank or TLB entry half it selects, the cache lock condition a command reads, or the register of the
general access point that SCPR3 names; nothing for a reserved register and for a GAP register that is
read-only or unknown; and USP for SCPR13. A read changes R0 alone, and of every register and GAP register
with a value gives that value, the pending code and the addresses an exception latched among them. Rests on
the spec's decisions D35, D44, D45, D46 and D56; which TLB entry is selected by a separated TLB of 64 entries
is log 17, without a TLB log 42; that privilege values 2 to 15 are stored is log 39; that a cache lock
changes nothing here is log 20; that reserved bits of GAP registers without a stated value read 0 is log 43;
SCPR15's TLB field is the parameter (log 35), and External Access is one parameter (log 36). -/
def Obligations.SystemCoprocessorMoves : Prop :=
  ∀ (s : State) (reg : BitVec 4), isUser s = false →
    (∃ t, exec (.mvtc 0 reg) s = .next t
      ∧ t.spr = { s.spr with usp := if reg = 13 then readReg s 0 &&& 0xFFFFFFFC else s.spr.usp }
      ∧ (reg ∈ [0, 1, 2, 10, 13, 14] → t.scp = s.scp) ∧ (reg ≠ 11 → t.stale = s.stale)
      ∧ WritesScpr s t reg (readReg s 0) ∧ (reg = 4 → WritesGap s t s.scp.gapIndex (readReg s 0))
      ∧ KeepsGprs s t [] ∧ KeepsFlags s t ∧ KeepsSystemBits s t ∧ KeepsMemory s t ∧ KeepsCoprocs s t
      ∧ KeepsPlatform s t ∧ UnitEnds t (nextAddr s))
    ∧ ∃ t v, exec (.mvfc 0 reg) s = .next t ∧ WritesReg s t 0 v ∧ KeepsFlags s t
      ∧ ReadsScpr s reg v ∧ (reg = 4 → ReadsGap s s.scp.gapIndex v)

/-- R47 to R62: what a write of each readable system register leaves to be read, and of each register of the
general access point: the writable bits, the others as they were; a write of SCPR15 clears the pending
exception. Rests on the spec's decisions D35, D44 and D45 (the whole virtual word is stored); that SCPR6
reads back without a TLB is log 42, that privilege values 2 to 15 do is log 39, and that the reserved bits of
GAP 0x0302, 0x0500 and 0x0501 read 0 is log 43. -/
def Obligations.SystemRegistersReadBack : Prop :=
  ∀ s : State, isUser s = false →
    (∀ f ∈ [(3#4, 0xFFFFFFFF#32), (5, 0xFFFFFFFF), (7, 0x1FF), (8, 0x7F), (9, 0xFFFFFFFF), (12, 0xFFFFFC00),
        (13, 0xFFFFFFFC), (6, if s.scp.tlbIndex.getLsbD 0 then 0xFFFFF000 else 0xFFFFFFFF)],
      ∃ t u, exec (.mvtc 0 f.1) s = .next t ∧ exec (.mvfc 0 f.1) t = .next u
        ∧ readReg u 0 = readReg s 0 &&& f.2)
    ∧ (∃ t u, exec (.mvtc 0 15) s = .next t ∧ exec (.mvfc 0 15) t = .next u
      ∧ t.scp = { s.scp with pending := false, pendingCode := 0b1111 }
      ∧ (readReg u 0).toNat = 0x9003003C + (tlbConfigCode s.cfg.tlbConfig).toNat * 2 ^ 19
        + s.cfg.cacheAbsent.toNat * 2 ^ 18)
    ∧ ∀ (n : BitVec 2),
      ∀ f ∈ [(0x000#32, 0#32), (0x001, 0), (0x002, 0), (0x300, 0), (0x301, 0), (0x302, 0xFF), (0x500, 0),
        (0x501, 0), (0x600, 0), (0x601, 0), (0x700, 0x000FF0FF),
        (0x701 + 16 * n.setWidth 32, 0xFF), (0x702 + 16 * n.setWidth 32, 0xFFFFFFFF),
        (0x703 + 16 * n.setWidth 32, 0xFFFFFFFF), (0x704 + 16 * n.setWidth 32, 0xFF),
        (0x705 + 16 * n.setWidth 32, 0xFFFFFFFF), (0x706 + 16 * n.setWidth 32, 0xFFFFFFFF)],
      s.scp.gapIndex = f.1 →
      ∃ t u w, exec (.mvfc 0 4) s = .next t ∧ exec (.mvtc 0 4) s = .next u ∧ exec (.mvfc 0 4) u = .next w
        ∧ readReg w 0 = readReg t 0 &&& ~~~f.2 ||| readReg s 0 &&& f.2

/-- 44_coprocessor.md R421, R422, R431: when a coprocessor instruction does not reach its coprocessor:
coprocessor 0 in user mode raises SCP code 0010; an absent one, or a supervisor-only one in user mode, its own
exception, with nothing recorded; and what coprocessor 0 has no meaning for in supervisor mode stops. Rests on
the spec's decisions D34, D43, D54 and D55. -/
def Obligations.CoprocessorUnavailable : Prop :=
  ∀ (s : State) (p : BitVec 2) (b6 : BitVec 6) (b4 : BitVec 4),
    (∀ i ∈ [Instr.cpcmd p b6, .getc p b4, .execCp p b4, .mvtc p b4, .mvfc p b4, .ldcSp p b4, .ldcIdx p b4,
        .stcSp p b4, .stcIdx p b4],
      (p = 0 → isUser s = true → exec i s = exceptionEntry 0x20 s.pc .normal
        { s with scp := { s.scp with pendingCode := 0b0010, pending := true } })
      ∧ (p ≠ 0 → (coproc s p).present = false ∨ (isUser s = true ∧ (coproc s p).supervisorOnly = true) →
        exec i s = exceptionEntry (BitVec.ofNat 32 (0x20 + 4 * p.toNat)) s.pc .normal s))
    ∧ (isUser s = false →
      (∀ i ∈ [Instr.cpcmd 0 b6, .getc 0 b4, .execCp 0 b4], exec i s = .refused .cp0Command)
      ∧ ∀ i ∈ [Instr.ldcSp 0 b4, .ldcIdx 0 b4, .stcSp 0 b4, .stcIdx 0 b4], exec i s = .refused .cp0Transfer)

/-- R423, R425 to R430: the nine instructions on an attached coprocessor that the mode may use. EXEC on a
set status bit is the coprocessor's exception with `next` saved. LDC loads the word of the storage, in the
order of SR.Endian, or of the device or open bus, where the access ends. Rests on the spec's decisions D54
and D55; what a command does to the coprocessor is open (log 15), the list of device inputs is log 9. -/
def Obligations.AttachedCoprocessors : Prop :=
  ∀ (s : State) (p : BitVec 2) (b6 : BitVec 6) (b4 : BitVec 4), p ≠ 0 → (coproc s p).present = true →
    isUser s = false ∨ (coproc s p).supervisorOnly = false →
    let h := (coproc s p).held
    let others := fun t : State => (coproc t p).present = true
      ∧ (coproc t p).supervisorOnly = (coproc s p).supervisorOnly
      ∧ ∀ q : BitVec 2, q ≠ 0 → q ≠ p → coproc t q = coproc s q
    let quiet := fun t : State => t.spr = s.spr ∧ KeepsSystemBits s t ∧ t.halted = s.halted
      ∧ t.lockup = s.lockup ∧ t.cfg = s.cfg ∧ UnitEnds t (nextAddr s)
    let still := fun t : State => KeepsMemory s t ∧ KeepsScp s t ∧ KeepsPlatform s t ∧ t.stale = s.stale
    let loaded := fun (t : State) (v : Word) => heldReg (coproc t p).held b4 = v
      ∧ (∀ r, r ≠ b4 → heldReg (coproc t p).held r = heldReg h r) ∧ (coproc t p).held.status = h.status
    let stored := fun (t : State) (g : Target) => (∀ l cc, g = .storage l cc → KeepsMemoryOutside s t l 4
        ∧ t.events = s.events
        ∧ ∀ k < 4, t.byteAt { l with addr := l.addr + k } = storedByte s.sr.endian 4 k (heldReg h b4))
      ∧ (∀ pa, g = .device pa → KeepsMemory s t ∧ t.events = s.events ++ [.deviceWrite pa 4 (heldReg h b4)])
      ∧ (g = .openBus → KeepsMemory s t ∧ t.events = s.events)
    (∃ t, exec (.cpcmd p b6) s = .next t ∧ (coproc t p).held = Config.cpCommand p b6 h ∧ others t ∧ quiet t
      ∧ still t ∧ KeepsGprs s t [] ∧ KeepsFlags s t)
    ∧ (∃ t, exec (.getc p b4) s = .next t ∧ t.sr.z = !h.status.getLsbD b4.toNat ∧ t.sr.c = s.sr.c
      ∧ t.sr.s = s.sr.s ∧ t.sr.v = s.sr.v ∧ KeepsCoprocs s t ∧ quiet t ∧ still t ∧ KeepsGprs s t [])
    ∧ (h.status.getLsbD b4.toNat = false → ∃ t, exec (.execCp p b4) s = .next t ∧ t.sr.z = true
      ∧ t.sr.c = s.sr.c ∧ t.sr.s = s.sr.s ∧ t.sr.v = s.sr.v ∧ KeepsCoprocs s t ∧ quiet t ∧ still t
      ∧ KeepsGprs s t [])
    ∧ (h.status.getLsbD b4.toNat = true → exec (.execCp p b4) s
      = exceptionEntry (BitVec.ofNat 32 (0x20 + 4 * p.toNat)) (nextAddr s) .normal
        { s with sr := { s.sr with z := false } })
    ∧ (∃ t, exec (.mvtc p b4) s = .next t ∧ loaded t (readReg s 0) ∧ others t ∧ quiet t ∧ still t
      ∧ KeepsGprs s t [] ∧ KeepsFlags s t)
    ∧ (∃ t, exec (.mvfc p b4) s = .next t ∧ WritesReg s t 0 (heldReg h b4) ∧ KeepsFlags s t)
    ∧ (∀ f ∈ [(Instr.ldcSp p b4, readSp s + erImm s), (Instr.ldcIdx p b4, readReg s 1 + erImm s)],
      (∀ g u, locate .read (isUser s) .word f.2 s = .ok g u → ∃ t, exec f.1 s = .next t
        ∧ loaded t (readTarget .word g u).1 ∧ AnswersRead s g 4 (readTarget .word g u).1 t.env ∧ others t ∧ quiet t ∧ KeepsMemory s t ∧ t.scp = u.scp
        ∧ t.stale = s.stale ∧ t.events = s.events ∧ t.env = (readTarget .word g u).2.env
        ∧ KeepsGprs s t [] ∧ KeepsFlags s t)
      ∧ ∀ off u, locate .read (isUser s) .word f.2 s = .raise off u →
        exec f.1 s = exceptionEntry off s.pc .normal u ∧ u.cp1 = s.cp1 ∧ u.cp2 = s.cp2 ∧ u.cp3 = s.cp3)
    ∧ ∀ f ∈ [(Instr.stcSp p b4, readSp s + erImm s), (Instr.stcIdx p b4, readReg s 1 + erImm s)],
      (∀ g u, locate .write (isUser s) .word f.2 s = .ok g u → ∃ t, exec f.1 s = .next t ∧ stored t g
        ∧ KeepsCoprocs s t ∧ quiet t ∧ t.scp = u.scp ∧ t.env = s.env ∧ KeepsGprs s t [] ∧ KeepsFlags s t)
      ∧ ∀ off u, locate .write (isUser s) .word f.2 s = .raise off u →
        exec f.1 s = exceptionEntry off s.pc .normal u ∧ KeepsMemory s u

/-! ### System instructions -/

/-- 46_system.md R491, R495, R499: NOP n, of which NOP 1 latches the backup registers; SYNC, which drops
the stale halfwords whose maintenance is done and marks the others (the model's record of 20_memory.md R183,
log 19); and HALT in supervisor mode, which halts and tells the power management unit. HALT in user mode is
UserSystemBits. Rests on the spec's decisions D28, D29, D31 and D58. -/
def Obligations.NopSyncHalt : Prop :=
  ∀ (s : State) (n : BitVec 4),
    (∃ t, exec (.nop n) s = .next t ∧ KeepsGprs s t [] ∧ t.spr = s.spr ∧ KeepsFlags s t ∧ KeepsSystemBits s t
      ∧ KeepsMemory s t ∧ KeepsCoprocs s t ∧ KeepsPlatform s t ∧ t.stale = s.stale ∧ UnitEnds t (nextAddr s)
      ∧ (n ≠ 1 → t.scp = s.scp)
      ∧ (n = 1 → t.scp = { s.scp with
            backupIr := 0xE0B1, backupEr := t.scp.backupEr, backupPc := nextAddr s - 2 }
        ∧ (s.sr.e = true → t.scp.backupEr = s.spr.er)))
    ∧ (∃ t, exec (.sync 0) s = .next t ∧ KeepsGprs s t [] ∧ t.spr = s.spr ∧ KeepsFlags s t
      ∧ KeepsSystemBits s t ∧ KeepsMemory s t ∧ KeepsScp s t ∧ KeepsCoprocs s t ∧ KeepsPlatform s t
      ∧ (∀ e, e ∈ t.stale ↔ ∃ e' ∈ s.stale, (e'.writeBack ≠ 0 ∨ e'.invalidate ≠ 0)
        ∧ e = { e' with synced := true }) ∧ UnitEnds t (nextAddr s))
    ∧ (isUser s = false → ∃ t, exec (.halt n) s = .next t ∧ t.halted = true
      ∧ t.events = s.events ++ [.pmuHalt n] ∧ KeepsGprs s t [] ∧ t.spr = s.spr ∧ KeepsFlags s t
      ∧ KeepsSystemBits s t ∧ KeepsMemory s t ∧ KeepsScp s t ∧ KeepsCoprocs s t ∧ t.lockup = s.lockup
      ∧ t.cfg = s.cfg ∧ t.env = s.env ∧ t.stale = s.stale ∧ UnitEnds t (nextAddr s))

/-- R496 to R498: SET and CLR of each position under the bit positions of 10_state.md R25 (the spec's
decision D1): in supervisor mode, and in user mode where the bit is no system bit, that bit alone; Endian, E and
the unused positions do not change (its decision D2). That SET 9, which makes a mode that is not defined,
completes is log 22. -/
def Obligations.SetAndClearBits : Prop :=
  ∀ (s : State) (b : Bool), s.cfg.srLayout = defaultSrLayout →
    ∀ f ∈ [(15#4, { s.sr with modeHi := b }), (14, { s.sr with nmi := b }), (13, { s.sr with int := b }),
        (12, { s.sr with vi := b }), (11, s.sr), (10, s.sr), (9, { s.sr with modeLo := b }),
        (8, { s.sr with l := b }), (7, { s.sr with c := b }), (6, { s.sr with z := b }),
        (5, { s.sr with s := b }), (4, { s.sr with v := b }), (3, s.sr), (2, s.sr), (1, s.sr), (0, s.sr)],
      isUser s = false ∨ f.1 ∈ [0, 1, 2, 3, 4, 5, 6, 7, 10, 11] →
      ∃ t, exec (if b then .set f.1 else .clr f.1) s = .next t ∧ t.sr = { f.2 with e := false }
        ∧ KeepsGprs s t [] ∧ t.spr = s.spr ∧ KeepsMemory s t ∧ KeepsScp s t ∧ KeepsCoprocs s t
        ∧ KeepsPlatform s t ∧ t.stale = s.stale ∧ UnitEnds t (nextAddr s)

/-- R496, 40_load_store.md R290: the four things user mode may not do to the system bits, under each value of
`UserSysWrite`: the model stops, or SCP code 0010 with nothing else done, or the system bits stay and a POP
loads everything else of its list, the flags included. Rests on the spec's decisions D13, D16 and D22; that
a POP is asked this before it reads the stack is log 28. -/
def Obligations.UserSystemBits : Prop :=
  ∀ (s : State) (n pos : BitVec 4) (list : BitVec 8), isUser s = true →
    isSystemField (srFieldAt s.cfg.srLayout pos) = true → list.getLsbD 7 = true →
    (∀ i ∈ [Instr.set pos, .clr pos, .halt n, .popSpec list],
      (s.cfg.userSysWrite = .refuse → exec i s = .fault .userSysWrite)
      ∧ (s.cfg.userSysWrite = .privilegeViolation → exec i s = exceptionEntry 0x20 s.pc .normal
        { s with scp := { s.scp with pendingCode := 0b0010, pending := true } }))
    ∧ (s.cfg.userSysWrite = .ignore →
      (∀ i ∈ [Instr.set pos, .clr pos, .halt n], ∃ t, exec i s = .next t ∧ WritesSpecial s t s.spr
        ∧ KeepsFlags s t)
      ∧ (PlainStack true (readSp s) (listBits list).length s →
        let word := fun b : BitVec 3 => wordAt s (busLoc (readSp s + 4 * BitVec.ofNat 32 (rankIn list b)))
        ∃ t, exec (.popSpec list) s = .next t ∧ PopsSpecial s t list word
          ∧ LoadsFlags s.cfg.srLayout t.sr (word 7) ∧ KeepsSystemBits s t ∧ KeepsMemory s t ∧ KeepsScp s t
          ∧ KeepsCoprocs s t ∧ KeepsPlatform s t ∧ t.stale = s.stale))

/-- R493, R494, 30_encoding.md R214, R215: the instructions the spec gives no effect, and the encodings it
puts outside the specification, stop. Rests on the spec's decisions D7, D28 and D52. -/
def Obligations.StoppedInstructions : Prop :=
  ∀ (s : State) (blank : BitVec 4) (imm : BitVec 3) (dst : Reg),
    (∀ i ∈ [Instr.step 0, .brkpt 0], exec i s = .refused .debugUnit)
    ∧ (blank ≠ 0 → ∀ i ∈ [Instr.jplr blank, .step blank, .brkpt blank, .sync blank],
      exec i s = .fault .blankBits)
    ∧ (s.cfg.dspExt = true → s.sr.e = true → ∀ i ∈ [Instr.mrs imm dst, .ror imm dst, .rol imm dst],
      exec i s = .fault .prefixedRotate)

/-! ### The DSP option -/

/-- 45_dsp.md R441, R455 to R459, R473, R474: the saturating sums and the averages: a supplied `DspFn`, or
the default lane by lane. The defaults are the spec's, its decision D51 (log 13); nothing is said of the
flags (D33). -/
def Obligations.LaneArithmetic : Prop :=
  ∀ (s : State) (dst src : Reg) (d : BitVec 3), s.cfg.dspExt = true →
    let a := readReg s dst
    let low := readReg s (lowReg d)
    let b := srcImm s src
    let lane8 := fun (v : Word) (i : Nat) => v.extractLsb' (8 * i) 8
    let lane16 := fun (v : Word) (i : Nat) => v.extractLsb' (16 * i) 16
    (∃ t v, exec (.saddb dst src) s = .next t ∧ WritesReg s t dst v ∧ DspValue s .saddb a b v (∀ i < 4,
      (lane8 v i).toInt = Max.max (-128) (Min.min 127 ((lane8 a i).toInt + (lane8 b i).toInt))))
    ∧ (∃ t v, exec (.sadds dst src) s = .next t ∧ WritesReg s t dst v ∧ DspValue s .sadds a b v (∀ i < 2,
      (lane16 v i).toInt = Max.max (-32768) (Min.min 32767 ((lane16 a i).toInt + (lane16 b i).toInt))))
    ∧ (∃ t v, exec (.sadub dst src) s = .next t ∧ WritesReg s t dst v ∧ DspValue s .sadub a b v (∀ i < 4,
      (lane8 v i).toNat = Min.min 255 ((lane8 a i).toNat + (lane8 b i).toNat)))
    ∧ (∃ t v, exec (.sadus dst src) s = .next t ∧ WritesReg s t dst v ∧ DspValue s .sadus a b v (∀ i < 2,
      (lane16 v i).toNat = Min.min 65535 ((lane16 a i).toNat + (lane16 b i).toNat)))
    ∧ (∃ t v, exec (.sadd dst src) s = .next t ∧ WritesReg s t dst v ∧ DspValue s .sadd a b v
      (v.toInt = Max.max (-2 ^ 31) (Min.min (2 ^ 31 - 1) (a.toInt + b.toInt))))
    ∧ (∃ t v, exec (.avgb d src) s = .next t ∧ WritesReg s t (lowReg d) v ∧ DspValue s .avgb low b v
      (∀ i < 4, (lane8 v i).toNat = ((lane8 low i).toNat + (lane8 b i).toNat) / 2))
    ∧ (∃ t v, exec (.avgs d src) s = .next t ∧ WritesReg s t (lowReg d) v ∧ DspValue s .avgs low b v
      (∀ i < 2, (lane16 v i).toNat = ((lane16 low i).toNat + (lane16 b i).toNat) / 2))

/-- R441, R460 to R469: the unpacks, from the register pair of a group (A the even, B the odd one): a
supplied `DspFn`, or the spec's default, its decision D51 (log 13); a byte unpack writes one half and keeps
the other, whatever its function is. -/
def Obligations.UnpackInstructions : Prop :=
  ∀ (s : State) (g : BitVec 3) (dst : Reg), s.cfg.dspExt = true →
    let a := readReg s (evenReg g)
    let b := readReg s (oddReg g)
    let old := (readReg s dst).toNat
    (∀ f ∈ [(DspOp.upkls, Instr.upkls g dst, a.toNat % 2 ^ 16 * 2 ^ 16 + b.toNat % 2 ^ 16),
        (.upkhs, .upkhs g dst, a.toNat / 2 ^ 16 * 2 ^ 16 + b.toNat / 2 ^ 16)],
      ∃ t v, exec f.2.1 s = .next t ∧ WritesReg s t dst v ∧ DspValue s f.1 a b v (v.toNat = f.2.2))
    ∧ ∀ f ∈ [(0, DspOp.upk0lb, Instr.upk0lb g dst, DspOp.upk0hb, Instr.upk0hb g dst),
        (1, .upk1lb, .upk1lb g dst, .upk1hb, .upk1hb g dst), (2, .upk2lb, .upk2lb g dst, .upk2hb, .upk2hb g dst),
        (3, .upk3lb, .upk3lb g dst, .upk3hb, .upk3hb g dst)],
      let bytes := a.toNat / 256 ^ f.1 % 256 * 256 + b.toNat / 256 ^ f.1 % 256
      (∃ t v r, exec f.2.2.1 s = .next t ∧ WritesReg s t dst v
        ∧ DspValue s f.2.1 a b r (r.toNat % 2 ^ 16 = bytes)
        ∧ v.toNat = old / 2 ^ 16 * 2 ^ 16 + r.toNat % 2 ^ 16)
      ∧ ∃ t v r, exec f.2.2.2.2 s = .next t ∧ WritesReg s t dst v
        ∧ DspValue s f.2.2.2.1 a b r (r.toNat % 2 ^ 16 = bytes)
        ∧ v.toNat = r.toNat % 2 ^ 16 * 2 ^ 16 + old % 2 ^ 16

/-- R441, R475 to R479: rotates without a LERI, minimum, maximum and absolute value: a supplied `DspFn`, or
the spec's default, its decision D51 (log 13); ABS of the most negative number completes, and of its
default result nothing is said. -/
def Obligations.RotateMinMaxAbs : Prop :=
  ∀ (s : State) (imm d : BitVec 3) (dst src : Reg), s.cfg.dspExt = true →
    let a := readReg s dst
    let low := readReg s (lowReg d)
    let b := srcImm s src
    (s.sr.e = false →
      (∃ t v, exec (.ror imm dst) s = .next t ∧ WritesReg s t dst v ∧ DspValue s .ror a (imm.setWidth 32) v
        (∀ i < 32, v.getLsbD i = a.getLsbD ((i + imm.toNat) % 32)))
      ∧ ∃ t v, exec (.rol imm dst) s = .next t ∧ WritesReg s t dst v ∧ DspValue s .rol a (imm.setWidth 32) v
        (∀ i < 32, v.getLsbD ((i + imm.toNat) % 32) = a.getLsbD i))
    ∧ (∃ t v, exec (.min d src) s = .next t ∧ WritesReg s t (lowReg d) v ∧ DspValue s .min low b v
      (v.toInt = Min.min low.toInt b.toInt))
    ∧ (∃ t v, exec (.max d src) s = .next t ∧ WritesReg s t (lowReg d) v ∧ DspValue s .max low b v
      (v.toInt = Max.max low.toInt b.toInt))
    ∧ ∃ t v, exec (.abs dst) s = .next t ∧ WritesReg s t dst v ∧ DspValue s .abs a 0 v
      (a.toInt ≠ -2 ^ 31 → v.toInt = (a.toInt.natAbs : Int))

/-- R450 to R453, R470 to R472: the instructions whose result the spec leaves open complete and write
nothing but what it names, from the open function of `Config`, which no proof can see (log 12); MTMRE and MFMRE
move MRE and change no flag. -/
def Obligations.OpenDspAndMreMoves : Prop :=
  ∀ (s : State) (imm : BitVec 3) (r q : Reg), s.cfg.dspExt = true →
    let a := readReg s r
    let b := srcImm s q
    let p := s.spr
    (∀ f ∈ [(Instr.macb r q, Config.macb a b p.mre p.mh p.ml), (Instr.macs r q, Config.macs a b p.mre p.mh p.ml)],
      ∃ t, exec f.1 s = .next t ∧ t.spr.mre ++ t.spr.mh ++ t.spr.ml = f.2
        ∧ WritesSpecial s t { p with mre := t.spr.mre, mh := t.spr.mh, ml := t.spr.ml })
    ∧ (∃ t, exec (.msopb r q) s = .next t
      ∧ t.spr.mh.extractLsb' 0 16 ++ t.spr.ml = Config.msopb a b p.mre p.mh p.ml
      ∧ WritesSpecial s t { p with mre := t.spr.mre, mh := t.spr.mh, ml := t.spr.ml })
    ∧ (∃ t, exec (.msops r q) s = .next t ∧ t.spr.ml = Config.msops a b p.mre p.mh p.ml
      ∧ WritesSpecial s t { p with mre := t.spr.mre, mh := t.spr.mh, ml := t.spr.ml })
    ∧ (s.sr.e = false → ∃ t, exec (.mrs imm r) s = .next t ∧ WritesReg s t r (Config.mrs imm p.mh p.ml a))
    ∧ (∃ t, exec (.mtmre r) s = .next t ∧ WritesSpecial s t { p with mre := a } ∧ KeepsFlags s t)
    ∧ ∃ t, exec (.mfmre r) s = .next t ∧ WritesReg s t r p.mre ∧ KeepsFlags s t

/-! ### Unit boundaries -/

/-- 60_exceptions.md R540 to R544, R561, 10_state.md R28, R84: what a step does at a unit boundary, in
order: lockup sees Reset alone; NMI before INT, each only when enabled and not locked out; INT at 0x08 or at
four times the controller's number; a halted machine with nothing to take waits. Rests on the spec's decisions
D36, D37, D49 and D50. -/
def Obligations.BoundaryEvents : Prop :=
  ∀ s : State, s.sr.e = false → (requestNow s).resetReq = false →
    let u := consumeBoundary s
    let number := (requestNow s).intcNumber
    (s.lockup = true → step s = .next u)
    ∧ (s.lockup = false → s.sr.modeLo = true → step s = .fault .reservedMode)
    ∧ (s.lockup = false → s.sr.modeLo = false →
      ((requestNow s).nmiPending = true → s.sr.nmi = true → s.sr.l = false →
        step s = exceptionEntry 0x04 s.pc .nmi u)
      ∧ ((requestNow s).nmiPending = false ∨ s.sr.nmi = false → (requestNow s).intPending = true →
        s.sr.int = true → s.sr.l = false →
        let v := { u with events := s.events ++ [.intAck] }
        (s.sr.vi = false → step s = exceptionEntry 0x08 s.pc .normal v)
        ∧ (s.sr.vi = true → 0x20 ≤ number.toNat → number.toNat ≤ 0xFF →
          step s = exceptionEntry (BitVec.ofNat 32 (4 * number.toNat)) s.pc .normal v)
        ∧ (s.sr.vi = true → number.toNat < 0x20 ∨ 0xFF < number.toNat → step s = .fault .interruptNumber))
      ∧ ((requestNow s).nmiPending = false ∨ s.sr.nmi = false ∨ s.sr.l = true →
        (requestNow s).intPending = false ∨ s.sr.int = false ∨ s.sr.l = true → s.halted = true →
        step s = .next u))

/-- 70_reset_and_hazards.md R580, 10_state.md R90: Reset at a unit boundary, from any state, lockup and (log
46) the reserved modes included. The vector is the word at address 0 read with the reset values in force: where
`spm_param.vh` enables no scratch-pad that is the word of memory there, and without memory there the model
stops; in general it is the word where that read ends. Then pc is at it, supervisor mode, interrupts off,
the system registers and those of the general access point at their reset values, every sub-bank entry and
SCPR6 (log 5) among them, memory and the byte order as they were. Rests on the spec's decision D18 and log 37. -/
def Obligations.ResetEventEffect : Prop :=
  ∀ s : State, s.sr.e = false → (requestNow s).resetReq = true →
    let r := resetState (consumeBoundary s)
    let vector := locate .read false .word 0 r
    (s.cfg.spmReset.iEnable ≠ 1 → s.cfg.spmReset.dEnable ≠ 1 →
      (regionAt s.cfg.platform 0 ≠ some .ram → step s = .fault .noResetMemory)
      ∧ (regionAt s.cfg.platform 0 = some .ram → vector = .ok (.storage (busLoc 0) 0) r
        ∧ wordAt r (busLoc 0) = wordAt s (busLoc 0)))
    ∧ ∀ l cc u, vector = .ok (.storage l cc) u →
      ∃ t, step s = .next t
        ∧ UnitEnds t (wordAt r l)
        ∧ t.sr.mode = .supervisor ∧ t.sr.nmi = false ∧ t.sr.int = false ∧ t.sr.vi = false ∧ t.sr.l = false
        ∧ t.sr.endian = s.sr.endian ∧ t.spr.usp = 0 ∧ t.halted = false ∧ t.lockup = false
        ∧ t.scp.memoryBank = 0 ∧ t.scp.vectorBase = 0 ∧ t.scp.tlbIndex = 0 ∧ t.scp.subBankIndex = 0
        ∧ (∀ k, subBankAt t k = { valid := false, ar := false, cc := 0, base := 0, size := 0 })
        ∧ t.scp.pending = false ∧ t.scp.pendingCode = 0b1111
        ∧ t.scp.backupIr = 0 ∧ t.scp.backupEr = 0 ∧ t.scp.backupPc = 0 ∧ t.scp.itlbMiss = 0 ∧ t.scp.dtlbMiss = 0
        ∧ t.scp.icacheLock = 0 ∧ t.scp.dcacheLock = 0 ∧ t.scp.ibusError = 0 ∧ t.scp.dbusError = 0
        ∧ t.scp.pid = 0 ∧ t.scp.spm = s.cfg.spmReset ∧ t.gpr = s.cfg.resetGpr ∧ (scprRead 6 t).1 = 0
        ∧ (∀ a, t.byteAt { space := .bus, addr := a } = s.byteAt { space := .bus, addr := a })
        ∧ KeepsCoprocs s t ∧ t.cfg = s.cfg ∧ t.events = s.events
end

