-- ==== Sys2Proof/Laws/Memory.lean ====
section
/-! SUPPORT. What storage does: a read after a write, the bytes a write leaves alone, the canonical form
kept, and the bytes of a value. -/

namespace Sys2Proof.Machine

/-! ### One byte -/

theorem readByte_filter_same (m : Memory) (a : Nat) :
    readByte (m.filter fun c => c.1 ≠ a) a = unlistedByte := by
  induction m with
  | nil => rfl
  | cons c rest ih =>
    obtain ⟨k, c⟩ := c
    by_cases h : k = a
    · simp_all
    · have h' : a ≠ k := fun e => h e.symm
      simp_all [readByte]

theorem readByte_filter_other (m : Memory) {a x : Nat} (h : x ≠ a) :
    readByte (m.filter fun c => c.1 ≠ a) x = readByte m x := by
  induction m with
  | nil => rfl
  | cons c rest ih =>
    obtain ⟨k, c⟩ := c
    by_cases hk : k = a
    · subst hk; simp_all [readByte]
    · simp_all [readByte]

theorem readByte_insertByte_other (m : Memory) {a x : Nat} (b : Byte) (h : x ≠ a) :
    readByte (insertByte m a b) x = readByte m x := by
  induction m with
  | nil => simp [insertByte, readByte, h]
  | cons c rest ih =>
    obtain ⟨k, c⟩ := c
    unfold insertByte
    split <;> simp [readByte, h, ih]

theorem readByte_insertByte_same (m : Memory) (a : Nat) (b : Byte) (h : ∀ c ∈ m, c.1 ≠ a) :
    readByte (insertByte m a b) a = b := by
  induction m with
  | nil => simp [insertByte, readByte]
  | cons c rest ih =>
    obtain ⟨k, c⟩ := c
    unfold insertByte
    split
    · simp [readByte]
    · have hk : a ≠ k := fun e => h (k, c) (by simp) e.symm
      simp only [readByte, hk, if_false]
      exact ih fun c hc => h c (by simp [hc])

/-- Reading the byte just written. -/
@[simp] theorem readByte_writeByte_same (m : Memory) (a : Nat) (b : Byte) :
    readByte (writeByte m a b) a = b := by
  unfold writeByte
  dsimp only
  split
  · rw [readByte_filter_same]; simp_all
  · exact readByte_insertByte_same _ _ _ (by simp)

/-- Reading any other byte. -/
theorem readByte_writeByte_other (m : Memory) {a x : Nat} (b : Byte) (h : x ≠ a) :
    readByte (writeByte m a b) x = readByte m x := by
  unfold writeByte
  dsimp only
  split
  · exact readByte_filter_other m h
  · rw [readByte_insertByte_other _ _ h, readByte_filter_other m h]

/-! ### The canonical form -/

theorem wfFrom_mono {m : Memory} {lo lo' : Nat} (h : lo' ≤ lo) (hw : wfFrom lo m = true) :
    wfFrom lo' m = true := by
  cases m with
  | nil => rfl
  | cons c rest =>
    obtain ⟨k, c⟩ := c
    simp only [wfFrom, Bool.and_eq_true, decide_eq_true_eq] at *
    exact ⟨⟨by omega, hw.1.2⟩, hw.2⟩

theorem wfFrom_filter (p : Host.Cell → Bool) {m : Memory} {lo : Nat} (hw : wfFrom lo m = true) :
    wfFrom lo (m.filter p) = true := by
  induction m generalizing lo with
  | nil => rfl
  | cons c rest ih =>
    obtain ⟨k, c⟩ := c
    simp only [wfFrom, Bool.and_eq_true, decide_eq_true_eq] at hw
    simp only [List.filter_cons]
    split
    · simp [wfFrom, hw.1.1, hw.1.2, ih hw.2]
    · exact wfFrom_mono (by omega) (ih hw.2)

theorem wfFrom_insertByte {m : Memory} {lo a : Nat} {b : Byte} (hw : wfFrom lo m = true)
    (ha : lo ≤ a) (hb : b ≠ unlistedByte) (hn : ∀ c ∈ m, c.1 ≠ a) :
    wfFrom lo (insertByte m a b) = true := by
  induction m generalizing lo with
  | nil => simp [insertByte, wfFrom, ha, hb]
  | cons c rest ih =>
    obtain ⟨k, c⟩ := c
    simp only [wfFrom, Bool.and_eq_true, decide_eq_true_eq] at hw
    unfold insertByte
    split
    · rename_i h
      simp [wfFrom, ha, hb, hw.1.2, hw.2, Nat.succ_le_of_lt h]
    · have hk : k ≠ a := hn (k, c) (by simp)
      simp [wfFrom, hw.1.1, hw.1.2, ih hw.2 (by omega) fun c hc => hn c (by simp [hc])]

/-- A write keeps the canonical form. -/
theorem wf_writeByte {m : Memory} (a : Nat) (b : Byte) (hw : m.wf = true) :
    Memory.wf (writeByte m a b) = true := by
  unfold Memory.wf writeByte at *
  dsimp only
  split
  · exact wfFrom_filter _ hw
  · rename_i hb
    exact wfFrom_insertByte (wfFrom_filter _ hw) (by omega) hb (by simp)

/-- A write of any number of bytes keeps the canonical form. -/
theorem wf_writeBytes {m : Memory} (a : Nat) (bs : List Byte) (hw : m.wf = true) :
    Memory.wf (writeBytes m a bs) = true := by
  induction bs generalizing m a with
  | nil => exact hw
  | cons b bs ih => exact ih _ (wf_writeByte a b hw)

/-- A write of a value keeps the canonical form. -/
theorem wf_writeSized (be : Bool) {m : Memory} (a : Nat) (z : AccessSize) (v : Word) (hw : m.wf = true) :
    Memory.wf (writeSized be m a z v) = true := wf_writeBytes _ _ hw

/-! ### Several bytes -/

/-- What any byte reads as after a write of several. -/
theorem readByte_writeBytes (m : Memory) (a x : Nat) (bs : List Byte) :
    readByte (writeBytes m a bs) x =
      if a ≤ x ∧ x < a + bs.length then bs.getD (x - a) 0 else readByte m x := by
  induction bs generalizing m a with
  | nil =>
    have h : ¬(a ≤ x ∧ x < a + ([] : List Byte).length) := by simp
    rw [if_neg h]; rfl
  | cons b bs ih =>
    unfold writeBytes
    rw [ih]
    by_cases hx : x = a
    · subst hx; simp
    · rw [readByte_writeByte_other m b hx]
      by_cases h1 : a + 1 ≤ x ∧ x < a + 1 + bs.length
      · rw [if_pos h1, if_pos (by simp; omega)]
        obtain ⟨n, hn⟩ : ∃ n, x - a = n + 1 := ⟨x - a - 1, by omega⟩
        have : x - (a + 1) = n := by omega
        simp [hn, this]
      · rw [if_neg h1, if_neg (by simp; omega)]

@[simp] theorem littleEndianBytes_length (v : Word) (z : AccessSize) :
    (littleEndianBytes v z).length = sizeBytes z := by cases z <;> rfl

@[simp] theorem valueBytes_length (be : Bool) (z : AccessSize) (v : Word) :
    (valueBytes be z v).length = sizeBytes z := by cases be <;> simp [valueBytes]

/-- What any byte reads as after a write of a value. -/
theorem readByte_writeSized (be : Bool) (m : Memory) (a x : Nat) (z : AccessSize) (v : Word) :
    readByte (writeSized be m a z v) x =
      if a ≤ x ∧ x < a + sizeBytes z then (valueBytes be z v).getD (x - a) 0 else readByte m x := by
  unfold writeSized
  rw [readByte_writeBytes, valueBytes_length]

theorem readBytes_congr {m n : Memory} (a k : Nat) (h : ∀ x, a ≤ x → x < a + k → readByte m x = readByte n x) :
    readBytes m a k = readBytes n a k := by
  induction k generalizing a with
  | zero => rfl
  | succ k ih =>
    simp only [readBytes]
    rw [h a (by omega) (by omega), ih (a + 1) fun x h1 h2 => h x (by omega) (by omega)]

theorem readBytes_writeBytes_same (m : Memory) (a : Nat) (bs : List Byte) :
    readBytes (writeBytes m a bs) a bs.length = bs := by
  induction bs generalizing m a with
  | nil => rfl
  | cons b bs ih =>
    simp only [List.length_cons, readBytes, writeBytes]
    rw [ih, readByte_writeBytes, if_neg (by omega), readByte_writeByte_same]

/-- The value of a value's bytes is what the size keeps of it. -/
theorem bytesValue_valueBytes (be : Bool) (z : AccessSize) (v : Word) :
    bytesValue be (valueBytes be z v) = truncateTo z v := by
  have h : littleEndianValue (littleEndianBytes v z) = truncateTo z v := by
    cases z
    all_goals
      apply BitVec.eq_of_getLsbD_eq
      intro i hi
      simp only [littleEndianBytes, littleEndianValue, truncateTo, BitVec.getLsbD_or,
        BitVec.getLsbD_shiftLeft, BitVec.getLsbD_setWidth, BitVec.getLsbD_extractLsb']
      interval_cases i <;> simp
  cases be <;> simp [bytesValue, valueBytes, h]

/-- Reading back a value that was just written. -/
theorem readSized_writeSized_same (be : Bool) (m : Memory) (a : Nat) (z : AccessSize) (v : Word) :
    readSized be (writeSized be m a z v) a z = truncateTo z v := by
  unfold readSized writeSized
  have := readBytes_writeBytes_same m a (valueBytes be z v)
  rw [valueBytes_length] at this
  rw [this, bytesValue_valueBytes]

/-! ### The storages of a state -/

@[simp] theorem storage_withStorage_same (s : State) (sp : Space) (m : Memory) :
    (s.withStorage sp m).storage sp = m := by cases sp <;> rfl

theorem storage_withStorage_other (s : State) {sp sp' : Space} (m : Memory) (h : sp' ≠ sp) :
    (s.withStorage sp m).storage sp' = s.storage sp' := by
  cases sp <;> cases sp' <;> first | rfl | exact absurd rfl h

end Sys2Proof.Machine
end

