-- ==== Sys2Proof/Laws/State.lean ====
section
/-! SUPPORT. One lemma per field per update, so that no proof unfolds a record update. -/

namespace Sys2Proof.Machine

@[simp] theorem writeReg_gpr (s : State) (r : Reg) (v : Word) :
    (writeReg s r v).gpr = s.gpr.set r.toNat v r.isLt := rfl
@[simp] theorem writeReg_pc (s : State) (r : Reg) (v : Word) :
    (writeReg s r v).pc = s.pc := rfl
@[simp] theorem writeReg_leris (s : State) (r : Reg) (v : Word) :
    (writeReg s r v).leris = s.leris := rfl
@[simp] theorem writeReg_sr (s : State) (r : Reg) (v : Word) :
    (writeReg s r v).sr = s.sr := rfl
@[simp] theorem writeReg_spr (s : State) (r : Reg) (v : Word) :
    (writeReg s r v).spr = s.spr := rfl
@[simp] theorem writeReg_scp (s : State) (r : Reg) (v : Word) :
    (writeReg s r v).scp = s.scp := rfl
@[simp] theorem writeReg_cp1 (s : State) (r : Reg) (v : Word) :
    (writeReg s r v).cp1 = s.cp1 := rfl
@[simp] theorem writeReg_cp2 (s : State) (r : Reg) (v : Word) :
    (writeReg s r v).cp2 = s.cp2 := rfl
@[simp] theorem writeReg_cp3 (s : State) (r : Reg) (v : Word) :
    (writeReg s r v).cp3 = s.cp3 := rfl
@[simp] theorem writeReg_mem (s : State) (r : Reg) (v : Word) :
    (writeReg s r v).mem = s.mem := rfl
@[simp] theorem writeReg_ispmMem (s : State) (r : Reg) (v : Word) :
    (writeReg s r v).ispmMem = s.ispmMem := rfl
@[simp] theorem writeReg_dspmMem (s : State) (r : Reg) (v : Word) :
    (writeReg s r v).dspmMem = s.dspmMem := rfl
@[simp] theorem writeReg_halted (s : State) (r : Reg) (v : Word) :
    (writeReg s r v).halted = s.halted := rfl
@[simp] theorem writeReg_lockup (s : State) (r : Reg) (v : Word) :
    (writeReg s r v).lockup = s.lockup := rfl
@[simp] theorem writeReg_stale (s : State) (r : Reg) (v : Word) :
    (writeReg s r v).stale = s.stale := rfl
@[simp] theorem writeReg_env (s : State) (r : Reg) (v : Word) :
    (writeReg s r v).env = s.env := rfl
@[simp] theorem writeReg_events (s : State) (r : Reg) (v : Word) :
    (writeReg s r v).events = s.events := rfl
@[simp] theorem writeReg_draws (s : State) (r : Reg) (v : Word) :
    (writeReg s r v).draws = s.draws := rfl
@[simp] theorem writeReg_cfg (s : State) (r : Reg) (v : Word) :
    (writeReg s r v).cfg = s.cfg := rfl

@[simp] theorem writeLr_gpr (s : State) (v : Word) :
    (writeLr s v).gpr = s.gpr := rfl
@[simp] theorem writeLr_pc (s : State) (v : Word) :
    (writeLr s v).pc = s.pc := rfl
@[simp] theorem writeLr_leris (s : State) (v : Word) :
    (writeLr s v).leris = s.leris := rfl
@[simp] theorem writeLr_sr (s : State) (v : Word) :
    (writeLr s v).sr = s.sr := rfl
@[simp] theorem writeLr_spr (s : State) (v : Word) :
    (writeLr s v).spr = { s.spr with lr := v &&& 0xFFFFFFFE } := rfl
@[simp] theorem writeLr_scp (s : State) (v : Word) :
    (writeLr s v).scp = s.scp := rfl
@[simp] theorem writeLr_cp1 (s : State) (v : Word) :
    (writeLr s v).cp1 = s.cp1 := rfl
@[simp] theorem writeLr_cp2 (s : State) (v : Word) :
    (writeLr s v).cp2 = s.cp2 := rfl
@[simp] theorem writeLr_cp3 (s : State) (v : Word) :
    (writeLr s v).cp3 = s.cp3 := rfl
@[simp] theorem writeLr_mem (s : State) (v : Word) :
    (writeLr s v).mem = s.mem := rfl
@[simp] theorem writeLr_ispmMem (s : State) (v : Word) :
    (writeLr s v).ispmMem = s.ispmMem := rfl
@[simp] theorem writeLr_dspmMem (s : State) (v : Word) :
    (writeLr s v).dspmMem = s.dspmMem := rfl
@[simp] theorem writeLr_halted (s : State) (v : Word) :
    (writeLr s v).halted = s.halted := rfl
@[simp] theorem writeLr_lockup (s : State) (v : Word) :
    (writeLr s v).lockup = s.lockup := rfl
@[simp] theorem writeLr_stale (s : State) (v : Word) :
    (writeLr s v).stale = s.stale := rfl
@[simp] theorem writeLr_env (s : State) (v : Word) :
    (writeLr s v).env = s.env := rfl
@[simp] theorem writeLr_events (s : State) (v : Word) :
    (writeLr s v).events = s.events := rfl
@[simp] theorem writeLr_draws (s : State) (v : Word) :
    (writeLr s v).draws = s.draws := rfl
@[simp] theorem writeLr_cfg (s : State) (v : Word) :
    (writeLr s v).cfg = s.cfg := rfl

@[simp] theorem jumpTo_gpr (t : Word) (s : State) :
    (jumpTo t s).gpr = s.gpr := rfl
@[simp] theorem jumpTo_pc (t : Word) (s : State) :
    (jumpTo t s).pc = t &&& 0xFFFFFFFE := rfl
@[simp] theorem jumpTo_leris (t : Word) (s : State) :
    (jumpTo t s).leris = 0 := rfl
@[simp] theorem jumpTo_sr (t : Word) (s : State) :
    (jumpTo t s).sr = { s.sr with e := false } := rfl
@[simp] theorem jumpTo_spr (t : Word) (s : State) :
    (jumpTo t s).spr = s.spr := rfl
@[simp] theorem jumpTo_scp (t : Word) (s : State) :
    (jumpTo t s).scp = s.scp := rfl
@[simp] theorem jumpTo_cp1 (t : Word) (s : State) :
    (jumpTo t s).cp1 = s.cp1 := rfl
@[simp] theorem jumpTo_cp2 (t : Word) (s : State) :
    (jumpTo t s).cp2 = s.cp2 := rfl
@[simp] theorem jumpTo_cp3 (t : Word) (s : State) :
    (jumpTo t s).cp3 = s.cp3 := rfl
@[simp] theorem jumpTo_mem (t : Word) (s : State) :
    (jumpTo t s).mem = s.mem := rfl
@[simp] theorem jumpTo_ispmMem (t : Word) (s : State) :
    (jumpTo t s).ispmMem = s.ispmMem := rfl
@[simp] theorem jumpTo_dspmMem (t : Word) (s : State) :
    (jumpTo t s).dspmMem = s.dspmMem := rfl
@[simp] theorem jumpTo_halted (t : Word) (s : State) :
    (jumpTo t s).halted = s.halted := rfl
@[simp] theorem jumpTo_lockup (t : Word) (s : State) :
    (jumpTo t s).lockup = s.lockup := rfl
@[simp] theorem jumpTo_stale (t : Word) (s : State) :
    (jumpTo t s).stale = s.stale := rfl
@[simp] theorem jumpTo_env (t : Word) (s : State) :
    (jumpTo t s).env = s.env := rfl
@[simp] theorem jumpTo_events (t : Word) (s : State) :
    (jumpTo t s).events = s.events := rfl
@[simp] theorem jumpTo_draws (t : Word) (s : State) :
    (jumpTo t s).draws = s.draws := rfl
@[simp] theorem jumpTo_cfg (t : Word) (s : State) :
    (jumpTo t s).cfg = s.cfg := rfl

@[simp] theorem retire_gpr (s : State) :
    (retire s).gpr = s.gpr := rfl
@[simp] theorem retire_pc (s : State) :
    (retire s).pc = nextAddr s &&& 0xFFFFFFFE := rfl
@[simp] theorem retire_leris (s : State) :
    (retire s).leris = 0 := rfl
@[simp] theorem retire_sr (s : State) :
    (retire s).sr = { s.sr with e := false } := rfl
@[simp] theorem retire_spr (s : State) :
    (retire s).spr = s.spr := rfl
@[simp] theorem retire_scp (s : State) :
    (retire s).scp = s.scp := rfl
@[simp] theorem retire_cp1 (s : State) :
    (retire s).cp1 = s.cp1 := rfl
@[simp] theorem retire_cp2 (s : State) :
    (retire s).cp2 = s.cp2 := rfl
@[simp] theorem retire_cp3 (s : State) :
    (retire s).cp3 = s.cp3 := rfl
@[simp] theorem retire_mem (s : State) :
    (retire s).mem = s.mem := rfl
@[simp] theorem retire_ispmMem (s : State) :
    (retire s).ispmMem = s.ispmMem := rfl
@[simp] theorem retire_dspmMem (s : State) :
    (retire s).dspmMem = s.dspmMem := rfl
@[simp] theorem retire_halted (s : State) :
    (retire s).halted = s.halted := rfl
@[simp] theorem retire_lockup (s : State) :
    (retire s).lockup = s.lockup := rfl
@[simp] theorem retire_stale (s : State) :
    (retire s).stale = s.stale := rfl
@[simp] theorem retire_env (s : State) :
    (retire s).env = s.env := rfl
@[simp] theorem retire_events (s : State) :
    (retire s).events = s.events := rfl
@[simp] theorem retire_draws (s : State) :
    (retire s).draws = s.draws := rfl
@[simp] theorem retire_cfg (s : State) :
    (retire s).cfg = s.cfg := rfl

@[simp] theorem draw_gpr (s : State) :
    (draw s).2.gpr = s.gpr := rfl
@[simp] theorem draw_pc (s : State) :
    (draw s).2.pc = s.pc := rfl
@[simp] theorem draw_leris (s : State) :
    (draw s).2.leris = s.leris := rfl
@[simp] theorem draw_sr (s : State) :
    (draw s).2.sr = s.sr := rfl
@[simp] theorem draw_spr (s : State) :
    (draw s).2.spr = s.spr := rfl
@[simp] theorem draw_scp (s : State) :
    (draw s).2.scp = s.scp := rfl
@[simp] theorem draw_cp1 (s : State) :
    (draw s).2.cp1 = s.cp1 := rfl
@[simp] theorem draw_cp2 (s : State) :
    (draw s).2.cp2 = s.cp2 := rfl
@[simp] theorem draw_cp3 (s : State) :
    (draw s).2.cp3 = s.cp3 := rfl
@[simp] theorem draw_mem (s : State) :
    (draw s).2.mem = s.mem := rfl
@[simp] theorem draw_ispmMem (s : State) :
    (draw s).2.ispmMem = s.ispmMem := rfl
@[simp] theorem draw_dspmMem (s : State) :
    (draw s).2.dspmMem = s.dspmMem := rfl
@[simp] theorem draw_halted (s : State) :
    (draw s).2.halted = s.halted := rfl
@[simp] theorem draw_lockup (s : State) :
    (draw s).2.lockup = s.lockup := rfl
@[simp] theorem draw_stale (s : State) :
    (draw s).2.stale = s.stale := rfl
@[simp] theorem draw_env (s : State) :
    (draw s).2.env = s.env := rfl
@[simp] theorem draw_events (s : State) :
    (draw s).2.events = s.events := rfl
@[simp] theorem draw_draws (s : State) :
    (draw s).2.draws = s.draws + 1 := rfl
@[simp] theorem draw_cfg (s : State) :
    (draw s).2.cfg = s.cfg := rfl

@[simp] theorem latchScp_gpr (code : BitVec 4) (s : State) :
    (latchScp code s).gpr = s.gpr := rfl
@[simp] theorem latchScp_pc (code : BitVec 4) (s : State) :
    (latchScp code s).pc = s.pc := rfl
@[simp] theorem latchScp_leris (code : BitVec 4) (s : State) :
    (latchScp code s).leris = s.leris := rfl
@[simp] theorem latchScp_sr (code : BitVec 4) (s : State) :
    (latchScp code s).sr = s.sr := rfl
@[simp] theorem latchScp_spr (code : BitVec 4) (s : State) :
    (latchScp code s).spr = s.spr := rfl
@[simp] theorem latchScp_scp (code : BitVec 4) (s : State) :
    (latchScp code s).scp = { s.scp with pendingCode := code, pending := true } := rfl
@[simp] theorem latchScp_cp1 (code : BitVec 4) (s : State) :
    (latchScp code s).cp1 = s.cp1 := rfl
@[simp] theorem latchScp_cp2 (code : BitVec 4) (s : State) :
    (latchScp code s).cp2 = s.cp2 := rfl
@[simp] theorem latchScp_cp3 (code : BitVec 4) (s : State) :
    (latchScp code s).cp3 = s.cp3 := rfl
@[simp] theorem latchScp_mem (code : BitVec 4) (s : State) :
    (latchScp code s).mem = s.mem := rfl
@[simp] theorem latchScp_ispmMem (code : BitVec 4) (s : State) :
    (latchScp code s).ispmMem = s.ispmMem := rfl
@[simp] theorem latchScp_dspmMem (code : BitVec 4) (s : State) :
    (latchScp code s).dspmMem = s.dspmMem := rfl
@[simp] theorem latchScp_halted (code : BitVec 4) (s : State) :
    (latchScp code s).halted = s.halted := rfl
@[simp] theorem latchScp_lockup (code : BitVec 4) (s : State) :
    (latchScp code s).lockup = s.lockup := rfl
@[simp] theorem latchScp_stale (code : BitVec 4) (s : State) :
    (latchScp code s).stale = s.stale := rfl
@[simp] theorem latchScp_env (code : BitVec 4) (s : State) :
    (latchScp code s).env = s.env := rfl
@[simp] theorem latchScp_events (code : BitVec 4) (s : State) :
    (latchScp code s).events = s.events := rfl
@[simp] theorem latchScp_draws (code : BitVec 4) (s : State) :
    (latchScp code s).draws = s.draws := rfl
@[simp] theorem latchScp_cfg (code : BitVec 4) (s : State) :
    (latchScp code s).cfg = s.cfg := rfl

@[simp] theorem writeTlb_gpr (s : State) (i : BitVec 8) (e : TlbEntry) :
    (writeTlb s i e).gpr = s.gpr := rfl
@[simp] theorem writeTlb_pc (s : State) (i : BitVec 8) (e : TlbEntry) :
    (writeTlb s i e).pc = s.pc := rfl
@[simp] theorem writeTlb_leris (s : State) (i : BitVec 8) (e : TlbEntry) :
    (writeTlb s i e).leris = s.leris := rfl
@[simp] theorem writeTlb_sr (s : State) (i : BitVec 8) (e : TlbEntry) :
    (writeTlb s i e).sr = s.sr := rfl
@[simp] theorem writeTlb_spr (s : State) (i : BitVec 8) (e : TlbEntry) :
    (writeTlb s i e).spr = s.spr := rfl
@[simp] theorem writeTlb_scp (s : State) (i : BitVec 8) (e : TlbEntry) :
    (writeTlb s i e).scp = { s.scp with tlb := s.scp.tlb.set i.toNat e i.isLt } := rfl
@[simp] theorem writeTlb_cp1 (s : State) (i : BitVec 8) (e : TlbEntry) :
    (writeTlb s i e).cp1 = s.cp1 := rfl
@[simp] theorem writeTlb_cp2 (s : State) (i : BitVec 8) (e : TlbEntry) :
    (writeTlb s i e).cp2 = s.cp2 := rfl
@[simp] theorem writeTlb_cp3 (s : State) (i : BitVec 8) (e : TlbEntry) :
    (writeTlb s i e).cp3 = s.cp3 := rfl
@[simp] theorem writeTlb_mem (s : State) (i : BitVec 8) (e : TlbEntry) :
    (writeTlb s i e).mem = s.mem := rfl
@[simp] theorem writeTlb_ispmMem (s : State) (i : BitVec 8) (e : TlbEntry) :
    (writeTlb s i e).ispmMem = s.ispmMem := rfl
@[simp] theorem writeTlb_dspmMem (s : State) (i : BitVec 8) (e : TlbEntry) :
    (writeTlb s i e).dspmMem = s.dspmMem := rfl
@[simp] theorem writeTlb_halted (s : State) (i : BitVec 8) (e : TlbEntry) :
    (writeTlb s i e).halted = s.halted := rfl
@[simp] theorem writeTlb_lockup (s : State) (i : BitVec 8) (e : TlbEntry) :
    (writeTlb s i e).lockup = s.lockup := rfl
@[simp] theorem writeTlb_stale (s : State) (i : BitVec 8) (e : TlbEntry) :
    (writeTlb s i e).stale = s.stale := rfl
@[simp] theorem writeTlb_env (s : State) (i : BitVec 8) (e : TlbEntry) :
    (writeTlb s i e).env = s.env := rfl
@[simp] theorem writeTlb_events (s : State) (i : BitVec 8) (e : TlbEntry) :
    (writeTlb s i e).events = s.events := rfl
@[simp] theorem writeTlb_draws (s : State) (i : BitVec 8) (e : TlbEntry) :
    (writeTlb s i e).draws = s.draws := rfl
@[simp] theorem writeTlb_cfg (s : State) (i : BitVec 8) (e : TlbEntry) :
    (writeTlb s i e).cfg = s.cfg := rfl

@[simp] theorem drawFlags_gpr (s : State) :
    (drawFlags s).gpr = s.gpr := rfl
@[simp] theorem drawFlags_pc (s : State) :
    (drawFlags s).pc = s.pc := rfl
@[simp] theorem drawFlags_leris (s : State) :
    (drawFlags s).leris = s.leris := rfl
@[simp] theorem drawFlags_sr (s : State) :
    (drawFlags s).sr = flagsFree (Config.draw s.draws) s.sr := rfl
@[simp] theorem drawFlags_spr (s : State) :
    (drawFlags s).spr = s.spr := rfl
@[simp] theorem drawFlags_scp (s : State) :
    (drawFlags s).scp = s.scp := rfl
@[simp] theorem drawFlags_cp1 (s : State) :
    (drawFlags s).cp1 = s.cp1 := rfl
@[simp] theorem drawFlags_cp2 (s : State) :
    (drawFlags s).cp2 = s.cp2 := rfl
@[simp] theorem drawFlags_cp3 (s : State) :
    (drawFlags s).cp3 = s.cp3 := rfl
@[simp] theorem drawFlags_mem (s : State) :
    (drawFlags s).mem = s.mem := rfl
@[simp] theorem drawFlags_ispmMem (s : State) :
    (drawFlags s).ispmMem = s.ispmMem := rfl
@[simp] theorem drawFlags_dspmMem (s : State) :
    (drawFlags s).dspmMem = s.dspmMem := rfl
@[simp] theorem drawFlags_halted (s : State) :
    (drawFlags s).halted = s.halted := rfl
@[simp] theorem drawFlags_lockup (s : State) :
    (drawFlags s).lockup = s.lockup := rfl
@[simp] theorem drawFlags_stale (s : State) :
    (drawFlags s).stale = s.stale := rfl
@[simp] theorem drawFlags_env (s : State) :
    (drawFlags s).env = s.env := rfl
@[simp] theorem drawFlags_events (s : State) :
    (drawFlags s).events = s.events := rfl
@[simp] theorem drawFlags_draws (s : State) :
    (drawFlags s).draws = s.draws + 1 := rfl
@[simp] theorem drawFlags_cfg (s : State) :
    (drawFlags s).cfg = s.cfg := rfl

@[simp] theorem writeProduct_gpr (p : BitVec 64) (s : State) :
    (writeProduct p s).gpr = s.gpr := rfl
@[simp] theorem writeProduct_pc (p : BitVec 64) (s : State) :
    (writeProduct p s).pc = s.pc := rfl
@[simp] theorem writeProduct_leris (p : BitVec 64) (s : State) :
    (writeProduct p s).leris = s.leris := rfl
@[simp] theorem writeProduct_sr (p : BitVec 64) (s : State) :
    (writeProduct p s).sr = s.sr := rfl
@[simp] theorem writeProduct_spr (p : BitVec 64) (s : State) :
    (writeProduct p s).spr = { s.spr with mh := p.extractLsb' 32 32, ml := p.extractLsb' 0 32 } := rfl
@[simp] theorem writeProduct_scp (p : BitVec 64) (s : State) :
    (writeProduct p s).scp = s.scp := rfl
@[simp] theorem writeProduct_cp1 (p : BitVec 64) (s : State) :
    (writeProduct p s).cp1 = s.cp1 := rfl
@[simp] theorem writeProduct_cp2 (p : BitVec 64) (s : State) :
    (writeProduct p s).cp2 = s.cp2 := rfl
@[simp] theorem writeProduct_cp3 (p : BitVec 64) (s : State) :
    (writeProduct p s).cp3 = s.cp3 := rfl
@[simp] theorem writeProduct_mem (p : BitVec 64) (s : State) :
    (writeProduct p s).mem = s.mem := rfl
@[simp] theorem writeProduct_ispmMem (p : BitVec 64) (s : State) :
    (writeProduct p s).ispmMem = s.ispmMem := rfl
@[simp] theorem writeProduct_dspmMem (p : BitVec 64) (s : State) :
    (writeProduct p s).dspmMem = s.dspmMem := rfl
@[simp] theorem writeProduct_halted (p : BitVec 64) (s : State) :
    (writeProduct p s).halted = s.halted := rfl
@[simp] theorem writeProduct_lockup (p : BitVec 64) (s : State) :
    (writeProduct p s).lockup = s.lockup := rfl
@[simp] theorem writeProduct_stale (p : BitVec 64) (s : State) :
    (writeProduct p s).stale = s.stale := rfl
@[simp] theorem writeProduct_env (p : BitVec 64) (s : State) :
    (writeProduct p s).env = s.env := rfl
@[simp] theorem writeProduct_events (p : BitVec 64) (s : State) :
    (writeProduct p s).events = s.events := rfl
@[simp] theorem writeProduct_draws (p : BitVec 64) (s : State) :
    (writeProduct p s).draws = s.draws := rfl
@[simp] theorem writeProduct_cfg (p : BitVec 64) (s : State) :
    (writeProduct p s).cfg = s.cfg := rfl

@[simp] theorem writeAccumulators_gpr (r : BitVec 96) (s : State) :
    (writeAccumulators r s).gpr = s.gpr := rfl
@[simp] theorem writeAccumulators_pc (r : BitVec 96) (s : State) :
    (writeAccumulators r s).pc = s.pc := rfl
@[simp] theorem writeAccumulators_leris (r : BitVec 96) (s : State) :
    (writeAccumulators r s).leris = s.leris := rfl
@[simp] theorem writeAccumulators_sr (r : BitVec 96) (s : State) :
    (writeAccumulators r s).sr = s.sr := rfl
@[simp] theorem writeAccumulators_spr (r : BitVec 96) (s : State) :
    (writeAccumulators r s).spr = { s.spr with
        mre := r.extractLsb' 64 32, mh := r.extractLsb' 32 32, ml := r.extractLsb' 0 32 } := rfl
@[simp] theorem writeAccumulators_scp (r : BitVec 96) (s : State) :
    (writeAccumulators r s).scp = s.scp := rfl
@[simp] theorem writeAccumulators_cp1 (r : BitVec 96) (s : State) :
    (writeAccumulators r s).cp1 = s.cp1 := rfl
@[simp] theorem writeAccumulators_cp2 (r : BitVec 96) (s : State) :
    (writeAccumulators r s).cp2 = s.cp2 := rfl
@[simp] theorem writeAccumulators_cp3 (r : BitVec 96) (s : State) :
    (writeAccumulators r s).cp3 = s.cp3 := rfl
@[simp] theorem writeAccumulators_mem (r : BitVec 96) (s : State) :
    (writeAccumulators r s).mem = s.mem := rfl
@[simp] theorem writeAccumulators_ispmMem (r : BitVec 96) (s : State) :
    (writeAccumulators r s).ispmMem = s.ispmMem := rfl
@[simp] theorem writeAccumulators_dspmMem (r : BitVec 96) (s : State) :
    (writeAccumulators r s).dspmMem = s.dspmMem := rfl
@[simp] theorem writeAccumulators_halted (r : BitVec 96) (s : State) :
    (writeAccumulators r s).halted = s.halted := rfl
@[simp] theorem writeAccumulators_lockup (r : BitVec 96) (s : State) :
    (writeAccumulators r s).lockup = s.lockup := rfl
@[simp] theorem writeAccumulators_stale (r : BitVec 96) (s : State) :
    (writeAccumulators r s).stale = s.stale := rfl
@[simp] theorem writeAccumulators_env (r : BitVec 96) (s : State) :
    (writeAccumulators r s).env = s.env := rfl
@[simp] theorem writeAccumulators_events (r : BitVec 96) (s : State) :
    (writeAccumulators r s).events = s.events := rfl
@[simp] theorem writeAccumulators_draws (r : BitVec 96) (s : State) :
    (writeAccumulators r s).draws = s.draws := rfl
@[simp] theorem writeAccumulators_cfg (r : BitVec 96) (s : State) :
    (writeAccumulators r s).cfg = s.cfg := rfl

@[simp] theorem withSpm_gpr (r : SpmRegs) (s : State) :
    (withSpm r s).gpr = s.gpr := rfl
@[simp] theorem withSpm_pc (r : SpmRegs) (s : State) :
    (withSpm r s).pc = s.pc := rfl
@[simp] theorem withSpm_leris (r : SpmRegs) (s : State) :
    (withSpm r s).leris = s.leris := rfl
@[simp] theorem withSpm_sr (r : SpmRegs) (s : State) :
    (withSpm r s).sr = s.sr := rfl
@[simp] theorem withSpm_spr (r : SpmRegs) (s : State) :
    (withSpm r s).spr = s.spr := rfl
@[simp] theorem withSpm_scp (r : SpmRegs) (s : State) :
    (withSpm r s).scp = { s.scp with spm := r } := rfl
@[simp] theorem withSpm_cp1 (r : SpmRegs) (s : State) :
    (withSpm r s).cp1 = s.cp1 := rfl
@[simp] theorem withSpm_cp2 (r : SpmRegs) (s : State) :
    (withSpm r s).cp2 = s.cp2 := rfl
@[simp] theorem withSpm_cp3 (r : SpmRegs) (s : State) :
    (withSpm r s).cp3 = s.cp3 := rfl
@[simp] theorem withSpm_mem (r : SpmRegs) (s : State) :
    (withSpm r s).mem = s.mem := rfl
@[simp] theorem withSpm_ispmMem (r : SpmRegs) (s : State) :
    (withSpm r s).ispmMem = s.ispmMem := rfl
@[simp] theorem withSpm_dspmMem (r : SpmRegs) (s : State) :
    (withSpm r s).dspmMem = s.dspmMem := rfl
@[simp] theorem withSpm_halted (r : SpmRegs) (s : State) :
    (withSpm r s).halted = s.halted := rfl
@[simp] theorem withSpm_lockup (r : SpmRegs) (s : State) :
    (withSpm r s).lockup = s.lockup := rfl
@[simp] theorem withSpm_stale (r : SpmRegs) (s : State) :
    (withSpm r s).stale = s.stale := rfl
@[simp] theorem withSpm_env (r : SpmRegs) (s : State) :
    (withSpm r s).env = s.env := rfl
@[simp] theorem withSpm_events (r : SpmRegs) (s : State) :
    (withSpm r s).events = s.events := rfl
@[simp] theorem withSpm_draws (r : SpmRegs) (s : State) :
    (withSpm r s).draws = s.draws := rfl
@[simp] theorem withSpm_cfg (r : SpmRegs) (s : State) :
    (withSpm r s).cfg = s.cfg := rfl

@[simp] theorem writeSubBank_gpr (k : BitVec 3) (b : SubBank) (s : State) :
    (writeSubBank k b s).gpr = s.gpr := rfl
@[simp] theorem writeSubBank_pc (k : BitVec 3) (b : SubBank) (s : State) :
    (writeSubBank k b s).pc = s.pc := rfl
@[simp] theorem writeSubBank_leris (k : BitVec 3) (b : SubBank) (s : State) :
    (writeSubBank k b s).leris = s.leris := rfl
@[simp] theorem writeSubBank_sr (k : BitVec 3) (b : SubBank) (s : State) :
    (writeSubBank k b s).sr = s.sr := rfl
@[simp] theorem writeSubBank_spr (k : BitVec 3) (b : SubBank) (s : State) :
    (writeSubBank k b s).spr = s.spr := rfl
@[simp] theorem writeSubBank_scp (k : BitVec 3) (b : SubBank) (s : State) :
    (writeSubBank k b s).scp = { s.scp with subBanks := s.scp.subBanks.set k.toNat b k.isLt } := rfl
@[simp] theorem writeSubBank_cp1 (k : BitVec 3) (b : SubBank) (s : State) :
    (writeSubBank k b s).cp1 = s.cp1 := rfl
@[simp] theorem writeSubBank_cp2 (k : BitVec 3) (b : SubBank) (s : State) :
    (writeSubBank k b s).cp2 = s.cp2 := rfl
@[simp] theorem writeSubBank_cp3 (k : BitVec 3) (b : SubBank) (s : State) :
    (writeSubBank k b s).cp3 = s.cp3 := rfl
@[simp] theorem writeSubBank_mem (k : BitVec 3) (b : SubBank) (s : State) :
    (writeSubBank k b s).mem = s.mem := rfl
@[simp] theorem writeSubBank_ispmMem (k : BitVec 3) (b : SubBank) (s : State) :
    (writeSubBank k b s).ispmMem = s.ispmMem := rfl
@[simp] theorem writeSubBank_dspmMem (k : BitVec 3) (b : SubBank) (s : State) :
    (writeSubBank k b s).dspmMem = s.dspmMem := rfl
@[simp] theorem writeSubBank_halted (k : BitVec 3) (b : SubBank) (s : State) :
    (writeSubBank k b s).halted = s.halted := rfl
@[simp] theorem writeSubBank_lockup (k : BitVec 3) (b : SubBank) (s : State) :
    (writeSubBank k b s).lockup = s.lockup := rfl
@[simp] theorem writeSubBank_stale (k : BitVec 3) (b : SubBank) (s : State) :
    (writeSubBank k b s).stale = s.stale := rfl
@[simp] theorem writeSubBank_env (k : BitVec 3) (b : SubBank) (s : State) :
    (writeSubBank k b s).env = s.env := rfl
@[simp] theorem writeSubBank_events (k : BitVec 3) (b : SubBank) (s : State) :
    (writeSubBank k b s).events = s.events := rfl
@[simp] theorem writeSubBank_draws (k : BitVec 3) (b : SubBank) (s : State) :
    (writeSubBank k b s).draws = s.draws := rfl
@[simp] theorem writeSubBank_cfg (k : BitVec 3) (b : SubBank) (s : State) :
    (writeSubBank k b s).cfg = s.cfg := rfl

@[simp] theorem syncStale_gpr (s : State) :
    (syncStale s).gpr = s.gpr := rfl
@[simp] theorem syncStale_pc (s : State) :
    (syncStale s).pc = s.pc := rfl
@[simp] theorem syncStale_leris (s : State) :
    (syncStale s).leris = s.leris := rfl
@[simp] theorem syncStale_sr (s : State) :
    (syncStale s).sr = s.sr := rfl
@[simp] theorem syncStale_spr (s : State) :
    (syncStale s).spr = s.spr := rfl
@[simp] theorem syncStale_scp (s : State) :
    (syncStale s).scp = s.scp := rfl
@[simp] theorem syncStale_cp1 (s : State) :
    (syncStale s).cp1 = s.cp1 := rfl
@[simp] theorem syncStale_cp2 (s : State) :
    (syncStale s).cp2 = s.cp2 := rfl
@[simp] theorem syncStale_cp3 (s : State) :
    (syncStale s).cp3 = s.cp3 := rfl
@[simp] theorem syncStale_mem (s : State) :
    (syncStale s).mem = s.mem := rfl
@[simp] theorem syncStale_ispmMem (s : State) :
    (syncStale s).ispmMem = s.ispmMem := rfl
@[simp] theorem syncStale_dspmMem (s : State) :
    (syncStale s).dspmMem = s.dspmMem := rfl
@[simp] theorem syncStale_halted (s : State) :
    (syncStale s).halted = s.halted := rfl
@[simp] theorem syncStale_lockup (s : State) :
    (syncStale s).lockup = s.lockup := rfl
@[simp] theorem syncStale_stale (s : State) :
    (syncStale s).stale = (s.stale.filter fun e => !(e.writeBack == 0 && e.invalidate == 0)).map fun e =>
      { e with synced := true } := rfl
@[simp] theorem syncStale_env (s : State) :
    (syncStale s).env = s.env := rfl
@[simp] theorem syncStale_events (s : State) :
    (syncStale s).events = s.events := rfl
@[simp] theorem syncStale_draws (s : State) :
    (syncStale s).draws = s.draws := rfl
@[simp] theorem syncStale_cfg (s : State) :
    (syncStale s).cfg = s.cfg := rfl

@[simp] theorem acknowledge_gpr (s : State) :
    (acknowledge s).gpr = s.gpr := rfl
@[simp] theorem acknowledge_pc (s : State) :
    (acknowledge s).pc = s.pc := rfl
@[simp] theorem acknowledge_leris (s : State) :
    (acknowledge s).leris = s.leris := rfl
@[simp] theorem acknowledge_sr (s : State) :
    (acknowledge s).sr = s.sr := rfl
@[simp] theorem acknowledge_spr (s : State) :
    (acknowledge s).spr = s.spr := rfl
@[simp] theorem acknowledge_scp (s : State) :
    (acknowledge s).scp = s.scp := rfl
@[simp] theorem acknowledge_cp1 (s : State) :
    (acknowledge s).cp1 = s.cp1 := rfl
@[simp] theorem acknowledge_cp2 (s : State) :
    (acknowledge s).cp2 = s.cp2 := rfl
@[simp] theorem acknowledge_cp3 (s : State) :
    (acknowledge s).cp3 = s.cp3 := rfl
@[simp] theorem acknowledge_mem (s : State) :
    (acknowledge s).mem = s.mem := rfl
@[simp] theorem acknowledge_ispmMem (s : State) :
    (acknowledge s).ispmMem = s.ispmMem := rfl
@[simp] theorem acknowledge_dspmMem (s : State) :
    (acknowledge s).dspmMem = s.dspmMem := rfl
@[simp] theorem acknowledge_halted (s : State) :
    (acknowledge s).halted = s.halted := rfl
@[simp] theorem acknowledge_lockup (s : State) :
    (acknowledge s).lockup = s.lockup := rfl
@[simp] theorem acknowledge_stale (s : State) :
    (acknowledge s).stale = s.stale := rfl
@[simp] theorem acknowledge_env (s : State) :
    (acknowledge s).env = s.env := rfl
@[simp] theorem acknowledge_events (s : State) :
    (acknowledge s).events = s.events ++ [.intAck] := rfl
@[simp] theorem acknowledge_draws (s : State) :
    (acknowledge s).draws = s.draws := rfl
@[simp] theorem acknowledge_cfg (s : State) :
    (acknowledge s).cfg = s.cfg := rfl

@[simp] theorem consumeBoundary_gpr (s : State) :
    (consumeBoundary s).gpr = s.gpr := rfl
@[simp] theorem consumeBoundary_pc (s : State) :
    (consumeBoundary s).pc = s.pc := rfl
@[simp] theorem consumeBoundary_leris (s : State) :
    (consumeBoundary s).leris = s.leris := rfl
@[simp] theorem consumeBoundary_sr (s : State) :
    (consumeBoundary s).sr = s.sr := rfl
@[simp] theorem consumeBoundary_spr (s : State) :
    (consumeBoundary s).spr = s.spr := rfl
@[simp] theorem consumeBoundary_scp (s : State) :
    (consumeBoundary s).scp = s.scp := rfl
@[simp] theorem consumeBoundary_cp1 (s : State) :
    (consumeBoundary s).cp1 = s.cp1 := rfl
@[simp] theorem consumeBoundary_cp2 (s : State) :
    (consumeBoundary s).cp2 = s.cp2 := rfl
@[simp] theorem consumeBoundary_cp3 (s : State) :
    (consumeBoundary s).cp3 = s.cp3 := rfl
@[simp] theorem consumeBoundary_mem (s : State) :
    (consumeBoundary s).mem = s.mem := rfl
@[simp] theorem consumeBoundary_ispmMem (s : State) :
    (consumeBoundary s).ispmMem = s.ispmMem := rfl
@[simp] theorem consumeBoundary_dspmMem (s : State) :
    (consumeBoundary s).dspmMem = s.dspmMem := rfl
@[simp] theorem consumeBoundary_halted (s : State) :
    (consumeBoundary s).halted = s.halted := rfl
@[simp] theorem consumeBoundary_lockup (s : State) :
    (consumeBoundary s).lockup = s.lockup := rfl
@[simp] theorem consumeBoundary_stale (s : State) :
    (consumeBoundary s).stale = s.stale := rfl
@[simp] theorem consumeBoundary_env (s : State) :
    (consumeBoundary s).env = { s.env with boundaries := s.env.boundaries.tail } := rfl
@[simp] theorem consumeBoundary_events (s : State) :
    (consumeBoundary s).events = s.events := rfl
@[simp] theorem consumeBoundary_draws (s : State) :
    (consumeBoundary s).draws = s.draws := rfl
@[simp] theorem consumeBoundary_cfg (s : State) :
    (consumeBoundary s).cfg = s.cfg := rfl

@[simp] theorem lockUp_gpr (s : State) :
    (lockUp s).gpr = s.gpr := rfl
@[simp] theorem lockUp_pc (s : State) :
    (lockUp s).pc = s.pc := rfl
@[simp] theorem lockUp_leris (s : State) :
    (lockUp s).leris = 0 := rfl
@[simp] theorem lockUp_sr (s : State) :
    (lockUp s).sr = { s.sr with e := false } := rfl
@[simp] theorem lockUp_spr (s : State) :
    (lockUp s).spr = s.spr := rfl
@[simp] theorem lockUp_scp (s : State) :
    (lockUp s).scp = s.scp := rfl
@[simp] theorem lockUp_cp1 (s : State) :
    (lockUp s).cp1 = s.cp1 := rfl
@[simp] theorem lockUp_cp2 (s : State) :
    (lockUp s).cp2 = s.cp2 := rfl
@[simp] theorem lockUp_cp3 (s : State) :
    (lockUp s).cp3 = s.cp3 := rfl
@[simp] theorem lockUp_mem (s : State) :
    (lockUp s).mem = s.mem := rfl
@[simp] theorem lockUp_ispmMem (s : State) :
    (lockUp s).ispmMem = s.ispmMem := rfl
@[simp] theorem lockUp_dspmMem (s : State) :
    (lockUp s).dspmMem = s.dspmMem := rfl
@[simp] theorem lockUp_halted (s : State) :
    (lockUp s).halted = s.halted := rfl
@[simp] theorem lockUp_lockup (s : State) :
    (lockUp s).lockup = true := rfl
@[simp] theorem lockUp_stale (s : State) :
    (lockUp s).stale = s.stale := rfl
@[simp] theorem lockUp_env (s : State) :
    (lockUp s).env = s.env := rfl
@[simp] theorem lockUp_events (s : State) :
    (lockUp s).events = s.events ++ [.pmuError] := rfl
@[simp] theorem lockUp_draws (s : State) :
    (lockUp s).draws = s.draws := rfl
@[simp] theorem lockUp_cfg (s : State) :
    (lockUp s).cfg = s.cfg := rfl

@[simp] theorem enterHandler_gpr (k : EntryKind) (h : Word) (s : State) :
    (enterHandler k h s).gpr = s.gpr := rfl
@[simp] theorem enterHandler_pc (k : EntryKind) (h : Word) (s : State) :
    (enterHandler k h s).pc = h &&& 0xFFFFFFFE := rfl
@[simp] theorem enterHandler_leris (k : EntryKind) (h : Word) (s : State) :
    (enterHandler k h s).leris = 0 := rfl
@[simp] theorem enterHandler_sr (k : EntryKind) (h : Word) (s : State) :
    (enterHandler k h s).sr = entrySr k s.sr := rfl
@[simp] theorem enterHandler_spr (k : EntryKind) (h : Word) (s : State) :
    (enterHandler k h s).spr = { s.spr with ssp := s.spr.ssp - 8 } := rfl
@[simp] theorem enterHandler_scp (k : EntryKind) (h : Word) (s : State) :
    (enterHandler k h s).scp = s.scp := rfl
@[simp] theorem enterHandler_cp1 (k : EntryKind) (h : Word) (s : State) :
    (enterHandler k h s).cp1 = s.cp1 := rfl
@[simp] theorem enterHandler_cp2 (k : EntryKind) (h : Word) (s : State) :
    (enterHandler k h s).cp2 = s.cp2 := rfl
@[simp] theorem enterHandler_cp3 (k : EntryKind) (h : Word) (s : State) :
    (enterHandler k h s).cp3 = s.cp3 := rfl
@[simp] theorem enterHandler_mem (k : EntryKind) (h : Word) (s : State) :
    (enterHandler k h s).mem = s.mem := rfl
@[simp] theorem enterHandler_ispmMem (k : EntryKind) (h : Word) (s : State) :
    (enterHandler k h s).ispmMem = s.ispmMem := rfl
@[simp] theorem enterHandler_dspmMem (k : EntryKind) (h : Word) (s : State) :
    (enterHandler k h s).dspmMem = s.dspmMem := rfl
@[simp] theorem enterHandler_halted (k : EntryKind) (h : Word) (s : State) :
    (enterHandler k h s).halted = false := rfl
@[simp] theorem enterHandler_lockup (k : EntryKind) (h : Word) (s : State) :
    (enterHandler k h s).lockup = s.lockup := rfl
@[simp] theorem enterHandler_stale (k : EntryKind) (h : Word) (s : State) :
    (enterHandler k h s).stale = s.stale := rfl
@[simp] theorem enterHandler_env (k : EntryKind) (h : Word) (s : State) :
    (enterHandler k h s).env = s.env := rfl
@[simp] theorem enterHandler_events (k : EntryKind) (h : Word) (s : State) :
    (enterHandler k h s).events = s.events := rfl
@[simp] theorem enterHandler_draws (k : EntryKind) (h : Word) (s : State) :
    (enterHandler k h s).draws = s.draws := rfl
@[simp] theorem enterHandler_cfg (k : EntryKind) (h : Word) (s : State) :
    (enterHandler k h s).cfg = s.cfg := rfl

@[simp] theorem writeSp_gpr (s : State) (v : Word) :
    (writeSp s v).gpr = s.gpr := by unfold writeSp; split <;> rfl
@[simp] theorem writeSp_pc (s : State) (v : Word) :
    (writeSp s v).pc = s.pc := by unfold writeSp; split <;> rfl
@[simp] theorem writeSp_leris (s : State) (v : Word) :
    (writeSp s v).leris = s.leris := by unfold writeSp; split <;> rfl
@[simp] theorem writeSp_sr (s : State) (v : Word) :
    (writeSp s v).sr = s.sr := by unfold writeSp; split <;> rfl
@[simp] theorem writeSp_scp (s : State) (v : Word) :
    (writeSp s v).scp = s.scp := by unfold writeSp; split <;> rfl
@[simp] theorem writeSp_cp1 (s : State) (v : Word) :
    (writeSp s v).cp1 = s.cp1 := by unfold writeSp; split <;> rfl
@[simp] theorem writeSp_cp2 (s : State) (v : Word) :
    (writeSp s v).cp2 = s.cp2 := by unfold writeSp; split <;> rfl
@[simp] theorem writeSp_cp3 (s : State) (v : Word) :
    (writeSp s v).cp3 = s.cp3 := by unfold writeSp; split <;> rfl
@[simp] theorem writeSp_mem (s : State) (v : Word) :
    (writeSp s v).mem = s.mem := by unfold writeSp; split <;> rfl
@[simp] theorem writeSp_ispmMem (s : State) (v : Word) :
    (writeSp s v).ispmMem = s.ispmMem := by unfold writeSp; split <;> rfl
@[simp] theorem writeSp_dspmMem (s : State) (v : Word) :
    (writeSp s v).dspmMem = s.dspmMem := by unfold writeSp; split <;> rfl
@[simp] theorem writeSp_halted (s : State) (v : Word) :
    (writeSp s v).halted = s.halted := by unfold writeSp; split <;> rfl
@[simp] theorem writeSp_lockup (s : State) (v : Word) :
    (writeSp s v).lockup = s.lockup := by unfold writeSp; split <;> rfl
@[simp] theorem writeSp_stale (s : State) (v : Word) :
    (writeSp s v).stale = s.stale := by unfold writeSp; split <;> rfl
@[simp] theorem writeSp_env (s : State) (v : Word) :
    (writeSp s v).env = s.env := by unfold writeSp; split <;> rfl
@[simp] theorem writeSp_events (s : State) (v : Word) :
    (writeSp s v).events = s.events := by unfold writeSp; split <;> rfl
@[simp] theorem writeSp_draws (s : State) (v : Word) :
    (writeSp s v).draws = s.draws := by unfold writeSp; split <;> rfl
@[simp] theorem writeSp_cfg (s : State) (v : Word) :
    (writeSp s v).cfg = s.cfg := by unfold writeSp; split <;> rfl

@[simp] theorem withStorage_gpr (s : State) (sp : Space) (m : Memory) :
    (s.withStorage sp m).gpr = s.gpr := by cases sp <;> rfl
@[simp] theorem withStorage_pc (s : State) (sp : Space) (m : Memory) :
    (s.withStorage sp m).pc = s.pc := by cases sp <;> rfl
@[simp] theorem withStorage_leris (s : State) (sp : Space) (m : Memory) :
    (s.withStorage sp m).leris = s.leris := by cases sp <;> rfl
@[simp] theorem withStorage_sr (s : State) (sp : Space) (m : Memory) :
    (s.withStorage sp m).sr = s.sr := by cases sp <;> rfl
@[simp] theorem withStorage_spr (s : State) (sp : Space) (m : Memory) :
    (s.withStorage sp m).spr = s.spr := by cases sp <;> rfl
@[simp] theorem withStorage_scp (s : State) (sp : Space) (m : Memory) :
    (s.withStorage sp m).scp = s.scp := by cases sp <;> rfl
@[simp] theorem withStorage_cp1 (s : State) (sp : Space) (m : Memory) :
    (s.withStorage sp m).cp1 = s.cp1 := by cases sp <;> rfl
@[simp] theorem withStorage_cp2 (s : State) (sp : Space) (m : Memory) :
    (s.withStorage sp m).cp2 = s.cp2 := by cases sp <;> rfl
@[simp] theorem withStorage_cp3 (s : State) (sp : Space) (m : Memory) :
    (s.withStorage sp m).cp3 = s.cp3 := by cases sp <;> rfl
@[simp] theorem withStorage_halted (s : State) (sp : Space) (m : Memory) :
    (s.withStorage sp m).halted = s.halted := by cases sp <;> rfl
@[simp] theorem withStorage_lockup (s : State) (sp : Space) (m : Memory) :
    (s.withStorage sp m).lockup = s.lockup := by cases sp <;> rfl
@[simp] theorem withStorage_stale (s : State) (sp : Space) (m : Memory) :
    (s.withStorage sp m).stale = s.stale := by cases sp <;> rfl
@[simp] theorem withStorage_env (s : State) (sp : Space) (m : Memory) :
    (s.withStorage sp m).env = s.env := by cases sp <;> rfl
@[simp] theorem withStorage_events (s : State) (sp : Space) (m : Memory) :
    (s.withStorage sp m).events = s.events := by cases sp <;> rfl
@[simp] theorem withStorage_draws (s : State) (sp : Space) (m : Memory) :
    (s.withStorage sp m).draws = s.draws := by cases sp <;> rfl
@[simp] theorem withStorage_cfg (s : State) (sp : Space) (m : Memory) :
    (s.withStorage sp m).cfg = s.cfg := by cases sp <;> rfl

@[simp] theorem latchMiss_gpr (k : AccessKind) (va : Word) (s : State) :
    (latchMiss k va s).gpr = s.gpr := by cases k <;> rfl
@[simp] theorem latchMiss_pc (k : AccessKind) (va : Word) (s : State) :
    (latchMiss k va s).pc = s.pc := by cases k <;> rfl
@[simp] theorem latchMiss_leris (k : AccessKind) (va : Word) (s : State) :
    (latchMiss k va s).leris = s.leris := by cases k <;> rfl
@[simp] theorem latchMiss_sr (k : AccessKind) (va : Word) (s : State) :
    (latchMiss k va s).sr = s.sr := by cases k <;> rfl
@[simp] theorem latchMiss_spr (k : AccessKind) (va : Word) (s : State) :
    (latchMiss k va s).spr = s.spr := by cases k <;> rfl
@[simp] theorem latchMiss_cp1 (k : AccessKind) (va : Word) (s : State) :
    (latchMiss k va s).cp1 = s.cp1 := by cases k <;> rfl
@[simp] theorem latchMiss_cp2 (k : AccessKind) (va : Word) (s : State) :
    (latchMiss k va s).cp2 = s.cp2 := by cases k <;> rfl
@[simp] theorem latchMiss_cp3 (k : AccessKind) (va : Word) (s : State) :
    (latchMiss k va s).cp3 = s.cp3 := by cases k <;> rfl
@[simp] theorem latchMiss_mem (k : AccessKind) (va : Word) (s : State) :
    (latchMiss k va s).mem = s.mem := by cases k <;> rfl
@[simp] theorem latchMiss_ispmMem (k : AccessKind) (va : Word) (s : State) :
    (latchMiss k va s).ispmMem = s.ispmMem := by cases k <;> rfl
@[simp] theorem latchMiss_dspmMem (k : AccessKind) (va : Word) (s : State) :
    (latchMiss k va s).dspmMem = s.dspmMem := by cases k <;> rfl
@[simp] theorem latchMiss_halted (k : AccessKind) (va : Word) (s : State) :
    (latchMiss k va s).halted = s.halted := by cases k <;> rfl
@[simp] theorem latchMiss_lockup (k : AccessKind) (va : Word) (s : State) :
    (latchMiss k va s).lockup = s.lockup := by cases k <;> rfl
@[simp] theorem latchMiss_stale (k : AccessKind) (va : Word) (s : State) :
    (latchMiss k va s).stale = s.stale := by cases k <;> rfl
@[simp] theorem latchMiss_env (k : AccessKind) (va : Word) (s : State) :
    (latchMiss k va s).env = s.env := by cases k <;> rfl
@[simp] theorem latchMiss_events (k : AccessKind) (va : Word) (s : State) :
    (latchMiss k va s).events = s.events := by cases k <;> rfl
@[simp] theorem latchMiss_draws (k : AccessKind) (va : Word) (s : State) :
    (latchMiss k va s).draws = s.draws := by cases k <;> rfl
@[simp] theorem latchMiss_cfg (k : AccessKind) (va : Word) (s : State) :
    (latchMiss k va s).cfg = s.cfg := by cases k <;> rfl

@[simp] theorem touchTlb_gpr (k : AccessKind) (i : BitVec 8) (s : State) :
    (touchTlb k i s).gpr = s.gpr := by cases k <;> rfl
@[simp] theorem touchTlb_pc (k : AccessKind) (i : BitVec 8) (s : State) :
    (touchTlb k i s).pc = s.pc := by cases k <;> rfl
@[simp] theorem touchTlb_leris (k : AccessKind) (i : BitVec 8) (s : State) :
    (touchTlb k i s).leris = s.leris := by cases k <;> rfl
@[simp] theorem touchTlb_sr (k : AccessKind) (i : BitVec 8) (s : State) :
    (touchTlb k i s).sr = s.sr := by cases k <;> rfl
@[simp] theorem touchTlb_spr (k : AccessKind) (i : BitVec 8) (s : State) :
    (touchTlb k i s).spr = s.spr := by cases k <;> rfl
@[simp] theorem touchTlb_cp1 (k : AccessKind) (i : BitVec 8) (s : State) :
    (touchTlb k i s).cp1 = s.cp1 := by cases k <;> rfl
@[simp] theorem touchTlb_cp2 (k : AccessKind) (i : BitVec 8) (s : State) :
    (touchTlb k i s).cp2 = s.cp2 := by cases k <;> rfl
@[simp] theorem touchTlb_cp3 (k : AccessKind) (i : BitVec 8) (s : State) :
    (touchTlb k i s).cp3 = s.cp3 := by cases k <;> rfl
@[simp] theorem touchTlb_mem (k : AccessKind) (i : BitVec 8) (s : State) :
    (touchTlb k i s).mem = s.mem := by cases k <;> rfl
@[simp] theorem touchTlb_ispmMem (k : AccessKind) (i : BitVec 8) (s : State) :
    (touchTlb k i s).ispmMem = s.ispmMem := by cases k <;> rfl
@[simp] theorem touchTlb_dspmMem (k : AccessKind) (i : BitVec 8) (s : State) :
    (touchTlb k i s).dspmMem = s.dspmMem := by cases k <;> rfl
@[simp] theorem touchTlb_halted (k : AccessKind) (i : BitVec 8) (s : State) :
    (touchTlb k i s).halted = s.halted := by cases k <;> rfl
@[simp] theorem touchTlb_lockup (k : AccessKind) (i : BitVec 8) (s : State) :
    (touchTlb k i s).lockup = s.lockup := by cases k <;> rfl
@[simp] theorem touchTlb_stale (k : AccessKind) (i : BitVec 8) (s : State) :
    (touchTlb k i s).stale = s.stale := by cases k <;> rfl
@[simp] theorem touchTlb_env (k : AccessKind) (i : BitVec 8) (s : State) :
    (touchTlb k i s).env = s.env := by cases k <;> rfl
@[simp] theorem touchTlb_events (k : AccessKind) (i : BitVec 8) (s : State) :
    (touchTlb k i s).events = s.events := by cases k <;> rfl
@[simp] theorem touchTlb_draws (k : AccessKind) (i : BitVec 8) (s : State) :
    (touchTlb k i s).draws = s.draws := by cases k <;> rfl
@[simp] theorem touchTlb_cfg (k : AccessKind) (i : BitVec 8) (s : State) :
    (touchTlb k i s).cfg = s.cfg := by cases k <;> rfl

@[simp] theorem withCounter_gpr (c : BitVec 1) (v : Word) (s : State) :
    (withCounter c v s).gpr = s.gpr := by unfold withCounter; split <;> rfl
@[simp] theorem withCounter_pc (c : BitVec 1) (v : Word) (s : State) :
    (withCounter c v s).pc = s.pc := by unfold withCounter; split <;> rfl
@[simp] theorem withCounter_leris (c : BitVec 1) (v : Word) (s : State) :
    (withCounter c v s).leris = s.leris := by unfold withCounter; split <;> rfl
@[simp] theorem withCounter_sr (c : BitVec 1) (v : Word) (s : State) :
    (withCounter c v s).sr = s.sr := by unfold withCounter; split <;> rfl
@[simp] theorem withCounter_scp (c : BitVec 1) (v : Word) (s : State) :
    (withCounter c v s).scp = s.scp := by unfold withCounter; split <;> rfl
@[simp] theorem withCounter_cp1 (c : BitVec 1) (v : Word) (s : State) :
    (withCounter c v s).cp1 = s.cp1 := by unfold withCounter; split <;> rfl
@[simp] theorem withCounter_cp2 (c : BitVec 1) (v : Word) (s : State) :
    (withCounter c v s).cp2 = s.cp2 := by unfold withCounter; split <;> rfl
@[simp] theorem withCounter_cp3 (c : BitVec 1) (v : Word) (s : State) :
    (withCounter c v s).cp3 = s.cp3 := by unfold withCounter; split <;> rfl
@[simp] theorem withCounter_mem (c : BitVec 1) (v : Word) (s : State) :
    (withCounter c v s).mem = s.mem := by unfold withCounter; split <;> rfl
@[simp] theorem withCounter_ispmMem (c : BitVec 1) (v : Word) (s : State) :
    (withCounter c v s).ispmMem = s.ispmMem := by unfold withCounter; split <;> rfl
@[simp] theorem withCounter_dspmMem (c : BitVec 1) (v : Word) (s : State) :
    (withCounter c v s).dspmMem = s.dspmMem := by unfold withCounter; split <;> rfl
@[simp] theorem withCounter_halted (c : BitVec 1) (v : Word) (s : State) :
    (withCounter c v s).halted = s.halted := by unfold withCounter; split <;> rfl
@[simp] theorem withCounter_lockup (c : BitVec 1) (v : Word) (s : State) :
    (withCounter c v s).lockup = s.lockup := by unfold withCounter; split <;> rfl
@[simp] theorem withCounter_stale (c : BitVec 1) (v : Word) (s : State) :
    (withCounter c v s).stale = s.stale := by unfold withCounter; split <;> rfl
@[simp] theorem withCounter_env (c : BitVec 1) (v : Word) (s : State) :
    (withCounter c v s).env = s.env := by unfold withCounter; split <;> rfl
@[simp] theorem withCounter_events (c : BitVec 1) (v : Word) (s : State) :
    (withCounter c v s).events = s.events := by unfold withCounter; split <;> rfl
@[simp] theorem withCounter_draws (c : BitVec 1) (v : Word) (s : State) :
    (withCounter c v s).draws = s.draws := by unfold withCounter; split <;> rfl
@[simp] theorem withCounter_cfg (c : BitVec 1) (v : Word) (s : State) :
    (withCounter c v s).cfg = s.cfg := by unfold withCounter; split <;> rfl

@[simp] theorem storeAt_gpr (z : AccessSize) (l : Loc) (cc : BitVec 2) (v : Word) (s : State) :
    (storeAt z l cc v s).gpr = s.gpr := by unfold storeAt State.withStorage; split <;> rfl
@[simp] theorem storeAt_pc (z : AccessSize) (l : Loc) (cc : BitVec 2) (v : Word) (s : State) :
    (storeAt z l cc v s).pc = s.pc := by unfold storeAt State.withStorage; split <;> rfl
@[simp] theorem storeAt_leris (z : AccessSize) (l : Loc) (cc : BitVec 2) (v : Word) (s : State) :
    (storeAt z l cc v s).leris = s.leris := by unfold storeAt State.withStorage; split <;> rfl
@[simp] theorem storeAt_sr (z : AccessSize) (l : Loc) (cc : BitVec 2) (v : Word) (s : State) :
    (storeAt z l cc v s).sr = s.sr := by unfold storeAt State.withStorage; split <;> rfl
@[simp] theorem storeAt_spr (z : AccessSize) (l : Loc) (cc : BitVec 2) (v : Word) (s : State) :
    (storeAt z l cc v s).spr = s.spr := by unfold storeAt State.withStorage; split <;> rfl
@[simp] theorem storeAt_scp (z : AccessSize) (l : Loc) (cc : BitVec 2) (v : Word) (s : State) :
    (storeAt z l cc v s).scp = s.scp := by unfold storeAt State.withStorage; split <;> rfl
@[simp] theorem storeAt_cp1 (z : AccessSize) (l : Loc) (cc : BitVec 2) (v : Word) (s : State) :
    (storeAt z l cc v s).cp1 = s.cp1 := by unfold storeAt State.withStorage; split <;> rfl
@[simp] theorem storeAt_cp2 (z : AccessSize) (l : Loc) (cc : BitVec 2) (v : Word) (s : State) :
    (storeAt z l cc v s).cp2 = s.cp2 := by unfold storeAt State.withStorage; split <;> rfl
@[simp] theorem storeAt_cp3 (z : AccessSize) (l : Loc) (cc : BitVec 2) (v : Word) (s : State) :
    (storeAt z l cc v s).cp3 = s.cp3 := by unfold storeAt State.withStorage; split <;> rfl
@[simp] theorem storeAt_halted (z : AccessSize) (l : Loc) (cc : BitVec 2) (v : Word) (s : State) :
    (storeAt z l cc v s).halted = s.halted := by unfold storeAt State.withStorage; split <;> rfl
@[simp] theorem storeAt_lockup (z : AccessSize) (l : Loc) (cc : BitVec 2) (v : Word) (s : State) :
    (storeAt z l cc v s).lockup = s.lockup := by unfold storeAt State.withStorage; split <;> rfl
@[simp] theorem storeAt_env (z : AccessSize) (l : Loc) (cc : BitVec 2) (v : Word) (s : State) :
    (storeAt z l cc v s).env = s.env := by unfold storeAt State.withStorage; split <;> rfl
@[simp] theorem storeAt_events (z : AccessSize) (l : Loc) (cc : BitVec 2) (v : Word) (s : State) :
    (storeAt z l cc v s).events = s.events := by unfold storeAt State.withStorage; split <;> rfl
@[simp] theorem storeAt_draws (z : AccessSize) (l : Loc) (cc : BitVec 2) (v : Word) (s : State) :
    (storeAt z l cc v s).draws = s.draws := by unfold storeAt State.withStorage; split <;> rfl
@[simp] theorem storeAt_cfg (z : AccessSize) (l : Loc) (cc : BitVec 2) (v : Word) (s : State) :
    (storeAt z l cc v s).cfg = s.cfg := by unfold storeAt State.withStorage; split <;> rfl

@[simp] theorem deviceRead_gpr (s : State) :
    (deviceRead s).2.gpr = s.gpr := by unfold deviceRead; split <;> rfl
@[simp] theorem deviceRead_pc (s : State) :
    (deviceRead s).2.pc = s.pc := by unfold deviceRead; split <;> rfl
@[simp] theorem deviceRead_leris (s : State) :
    (deviceRead s).2.leris = s.leris := by unfold deviceRead; split <;> rfl
@[simp] theorem deviceRead_sr (s : State) :
    (deviceRead s).2.sr = s.sr := by unfold deviceRead; split <;> rfl
@[simp] theorem deviceRead_spr (s : State) :
    (deviceRead s).2.spr = s.spr := by unfold deviceRead; split <;> rfl
@[simp] theorem deviceRead_scp (s : State) :
    (deviceRead s).2.scp = s.scp := by unfold deviceRead; split <;> rfl
@[simp] theorem deviceRead_cp1 (s : State) :
    (deviceRead s).2.cp1 = s.cp1 := by unfold deviceRead; split <;> rfl
@[simp] theorem deviceRead_cp2 (s : State) :
    (deviceRead s).2.cp2 = s.cp2 := by unfold deviceRead; split <;> rfl
@[simp] theorem deviceRead_cp3 (s : State) :
    (deviceRead s).2.cp3 = s.cp3 := by unfold deviceRead; split <;> rfl
@[simp] theorem deviceRead_mem (s : State) :
    (deviceRead s).2.mem = s.mem := by unfold deviceRead; split <;> rfl
@[simp] theorem deviceRead_ispmMem (s : State) :
    (deviceRead s).2.ispmMem = s.ispmMem := by unfold deviceRead; split <;> rfl
@[simp] theorem deviceRead_dspmMem (s : State) :
    (deviceRead s).2.dspmMem = s.dspmMem := by unfold deviceRead; split <;> rfl
@[simp] theorem deviceRead_halted (s : State) :
    (deviceRead s).2.halted = s.halted := by unfold deviceRead; split <;> rfl
@[simp] theorem deviceRead_lockup (s : State) :
    (deviceRead s).2.lockup = s.lockup := by unfold deviceRead; split <;> rfl
@[simp] theorem deviceRead_stale (s : State) :
    (deviceRead s).2.stale = s.stale := by unfold deviceRead; split <;> rfl
@[simp] theorem deviceRead_events (s : State) :
    (deviceRead s).2.events = s.events := by unfold deviceRead; split <;> rfl
@[simp] theorem deviceRead_cfg (s : State) :
    (deviceRead s).2.cfg = s.cfg := by unfold deviceRead; split <;> rfl

@[simp] theorem popSr_gpr (u : Bool) (w : Word) (s : State) :
    (popSr u w s).gpr = s.gpr := by cases u <;> rfl
@[simp] theorem popSr_pc (u : Bool) (w : Word) (s : State) :
    (popSr u w s).pc = s.pc := by cases u <;> rfl
@[simp] theorem popSr_leris (u : Bool) (w : Word) (s : State) :
    (popSr u w s).leris = s.leris := by cases u <;> rfl
@[simp] theorem popSr_spr (u : Bool) (w : Word) (s : State) :
    (popSr u w s).spr = s.spr := by cases u <;> rfl
@[simp] theorem popSr_scp (u : Bool) (w : Word) (s : State) :
    (popSr u w s).scp = s.scp := by cases u <;> rfl
@[simp] theorem popSr_cp1 (u : Bool) (w : Word) (s : State) :
    (popSr u w s).cp1 = s.cp1 := by cases u <;> rfl
@[simp] theorem popSr_cp2 (u : Bool) (w : Word) (s : State) :
    (popSr u w s).cp2 = s.cp2 := by cases u <;> rfl
@[simp] theorem popSr_cp3 (u : Bool) (w : Word) (s : State) :
    (popSr u w s).cp3 = s.cp3 := by cases u <;> rfl
@[simp] theorem popSr_mem (u : Bool) (w : Word) (s : State) :
    (popSr u w s).mem = s.mem := by cases u <;> rfl
@[simp] theorem popSr_ispmMem (u : Bool) (w : Word) (s : State) :
    (popSr u w s).ispmMem = s.ispmMem := by cases u <;> rfl
@[simp] theorem popSr_dspmMem (u : Bool) (w : Word) (s : State) :
    (popSr u w s).dspmMem = s.dspmMem := by cases u <;> rfl
@[simp] theorem popSr_halted (u : Bool) (w : Word) (s : State) :
    (popSr u w s).halted = s.halted := by cases u <;> rfl
@[simp] theorem popSr_lockup (u : Bool) (w : Word) (s : State) :
    (popSr u w s).lockup = s.lockup := by cases u <;> rfl
@[simp] theorem popSr_stale (u : Bool) (w : Word) (s : State) :
    (popSr u w s).stale = s.stale := by cases u <;> rfl
@[simp] theorem popSr_env (u : Bool) (w : Word) (s : State) :
    (popSr u w s).env = s.env := by cases u <;> rfl
@[simp] theorem popSr_events (u : Bool) (w : Word) (s : State) :
    (popSr u w s).events = s.events := by cases u <;> rfl
@[simp] theorem popSr_draws (u : Bool) (w : Word) (s : State) :
    (popSr u w s).draws = s.draws := by cases u <;> rfl
@[simp] theorem popSr_cfg (u : Bool) (w : Word) (s : State) :
    (popSr u w s).cfg = s.cfg := by cases u <;> rfl

@[simp] theorem withHeld_gpr (n : BitVec 2) (h : CoprocRegs) (s : State) :
    (withHeld n h s).gpr = s.gpr := by unfold withHeld; split <;> rfl
@[simp] theorem withHeld_pc (n : BitVec 2) (h : CoprocRegs) (s : State) :
    (withHeld n h s).pc = s.pc := by unfold withHeld; split <;> rfl
@[simp] theorem withHeld_leris (n : BitVec 2) (h : CoprocRegs) (s : State) :
    (withHeld n h s).leris = s.leris := by unfold withHeld; split <;> rfl
@[simp] theorem withHeld_sr (n : BitVec 2) (h : CoprocRegs) (s : State) :
    (withHeld n h s).sr = s.sr := by unfold withHeld; split <;> rfl
@[simp] theorem withHeld_spr (n : BitVec 2) (h : CoprocRegs) (s : State) :
    (withHeld n h s).spr = s.spr := by unfold withHeld; split <;> rfl
@[simp] theorem withHeld_scp (n : BitVec 2) (h : CoprocRegs) (s : State) :
    (withHeld n h s).scp = s.scp := by unfold withHeld; split <;> rfl
@[simp] theorem withHeld_mem (n : BitVec 2) (h : CoprocRegs) (s : State) :
    (withHeld n h s).mem = s.mem := by unfold withHeld; split <;> rfl
@[simp] theorem withHeld_ispmMem (n : BitVec 2) (h : CoprocRegs) (s : State) :
    (withHeld n h s).ispmMem = s.ispmMem := by unfold withHeld; split <;> rfl
@[simp] theorem withHeld_dspmMem (n : BitVec 2) (h : CoprocRegs) (s : State) :
    (withHeld n h s).dspmMem = s.dspmMem := by unfold withHeld; split <;> rfl
@[simp] theorem withHeld_halted (n : BitVec 2) (h : CoprocRegs) (s : State) :
    (withHeld n h s).halted = s.halted := by unfold withHeld; split <;> rfl
@[simp] theorem withHeld_lockup (n : BitVec 2) (h : CoprocRegs) (s : State) :
    (withHeld n h s).lockup = s.lockup := by unfold withHeld; split <;> rfl
@[simp] theorem withHeld_stale (n : BitVec 2) (h : CoprocRegs) (s : State) :
    (withHeld n h s).stale = s.stale := by unfold withHeld; split <;> rfl
@[simp] theorem withHeld_env (n : BitVec 2) (h : CoprocRegs) (s : State) :
    (withHeld n h s).env = s.env := by unfold withHeld; split <;> rfl
@[simp] theorem withHeld_events (n : BitVec 2) (h : CoprocRegs) (s : State) :
    (withHeld n h s).events = s.events := by unfold withHeld; split <;> rfl
@[simp] theorem withHeld_draws (n : BitVec 2) (h : CoprocRegs) (s : State) :
    (withHeld n h s).draws = s.draws := by unfold withHeld; split <;> rfl
@[simp] theorem withHeld_cfg (n : BitVec 2) (h : CoprocRegs) (s : State) :
    (withHeld n h s).cfg = s.cfg := by unfold withHeld; split <;> rfl

@[simp] theorem latchBackup_gpr (w : Half) (s : State) :
    (latchBackup w s).gpr = s.gpr := by unfold latchBackup; split <;> rfl
@[simp] theorem latchBackup_pc (w : Half) (s : State) :
    (latchBackup w s).pc = s.pc := by unfold latchBackup; split <;> rfl
@[simp] theorem latchBackup_leris (w : Half) (s : State) :
    (latchBackup w s).leris = s.leris := by unfold latchBackup; split <;> rfl
@[simp] theorem latchBackup_sr (w : Half) (s : State) :
    (latchBackup w s).sr = s.sr := by unfold latchBackup; split <;> rfl
@[simp] theorem latchBackup_spr (w : Half) (s : State) :
    (latchBackup w s).spr = s.spr := by unfold latchBackup; split <;> rfl
@[simp] theorem latchBackup_cp1 (w : Half) (s : State) :
    (latchBackup w s).cp1 = s.cp1 := by unfold latchBackup; split <;> rfl
@[simp] theorem latchBackup_cp2 (w : Half) (s : State) :
    (latchBackup w s).cp2 = s.cp2 := by unfold latchBackup; split <;> rfl
@[simp] theorem latchBackup_cp3 (w : Half) (s : State) :
    (latchBackup w s).cp3 = s.cp3 := by unfold latchBackup; split <;> rfl
@[simp] theorem latchBackup_mem (w : Half) (s : State) :
    (latchBackup w s).mem = s.mem := by unfold latchBackup; split <;> rfl
@[simp] theorem latchBackup_ispmMem (w : Half) (s : State) :
    (latchBackup w s).ispmMem = s.ispmMem := by unfold latchBackup; split <;> rfl
@[simp] theorem latchBackup_dspmMem (w : Half) (s : State) :
    (latchBackup w s).dspmMem = s.dspmMem := by unfold latchBackup; split <;> rfl
@[simp] theorem latchBackup_halted (w : Half) (s : State) :
    (latchBackup w s).halted = s.halted := by unfold latchBackup; split <;> rfl
@[simp] theorem latchBackup_lockup (w : Half) (s : State) :
    (latchBackup w s).lockup = s.lockup := by unfold latchBackup; split <;> rfl
@[simp] theorem latchBackup_stale (w : Half) (s : State) :
    (latchBackup w s).stale = s.stale := by unfold latchBackup; split <;> rfl
@[simp] theorem latchBackup_env (w : Half) (s : State) :
    (latchBackup w s).env = s.env := by unfold latchBackup; split <;> rfl
@[simp] theorem latchBackup_events (w : Half) (s : State) :
    (latchBackup w s).events = s.events := by unfold latchBackup; split <;> rfl
@[simp] theorem latchBackup_cfg (w : Half) (s : State) :
    (latchBackup w s).cfg = s.cfg := by unfold latchBackup; split <;> rfl

@[simp] theorem mulRdEffect_pc (d : BitVec 3) (p : BitVec 64) (s : State) :
    (mulRdEffect d p s).pc = s.pc := by unfold mulRdEffect; split <;> rfl
@[simp] theorem mulRdEffect_leris (d : BitVec 3) (p : BitVec 64) (s : State) :
    (mulRdEffect d p s).leris = s.leris := by unfold mulRdEffect; split <;> rfl
@[simp] theorem mulRdEffect_sr (d : BitVec 3) (p : BitVec 64) (s : State) :
    (mulRdEffect d p s).sr = s.sr := by unfold mulRdEffect; split <;> rfl
@[simp] theorem mulRdEffect_spr (d : BitVec 3) (p : BitVec 64) (s : State) :
    (mulRdEffect d p s).spr = s.spr := by unfold mulRdEffect; split <;> rfl
@[simp] theorem mulRdEffect_scp (d : BitVec 3) (p : BitVec 64) (s : State) :
    (mulRdEffect d p s).scp = s.scp := by unfold mulRdEffect; split <;> rfl
@[simp] theorem mulRdEffect_cp1 (d : BitVec 3) (p : BitVec 64) (s : State) :
    (mulRdEffect d p s).cp1 = s.cp1 := by unfold mulRdEffect; split <;> rfl
@[simp] theorem mulRdEffect_cp2 (d : BitVec 3) (p : BitVec 64) (s : State) :
    (mulRdEffect d p s).cp2 = s.cp2 := by unfold mulRdEffect; split <;> rfl
@[simp] theorem mulRdEffect_cp3 (d : BitVec 3) (p : BitVec 64) (s : State) :
    (mulRdEffect d p s).cp3 = s.cp3 := by unfold mulRdEffect; split <;> rfl
@[simp] theorem mulRdEffect_mem (d : BitVec 3) (p : BitVec 64) (s : State) :
    (mulRdEffect d p s).mem = s.mem := by unfold mulRdEffect; split <;> rfl
@[simp] theorem mulRdEffect_ispmMem (d : BitVec 3) (p : BitVec 64) (s : State) :
    (mulRdEffect d p s).ispmMem = s.ispmMem := by unfold mulRdEffect; split <;> rfl
@[simp] theorem mulRdEffect_dspmMem (d : BitVec 3) (p : BitVec 64) (s : State) :
    (mulRdEffect d p s).dspmMem = s.dspmMem := by unfold mulRdEffect; split <;> rfl
@[simp] theorem mulRdEffect_halted (d : BitVec 3) (p : BitVec 64) (s : State) :
    (mulRdEffect d p s).halted = s.halted := by unfold mulRdEffect; split <;> rfl
@[simp] theorem mulRdEffect_lockup (d : BitVec 3) (p : BitVec 64) (s : State) :
    (mulRdEffect d p s).lockup = s.lockup := by unfold mulRdEffect; split <;> rfl
@[simp] theorem mulRdEffect_stale (d : BitVec 3) (p : BitVec 64) (s : State) :
    (mulRdEffect d p s).stale = s.stale := by unfold mulRdEffect; split <;> rfl
@[simp] theorem mulRdEffect_env (d : BitVec 3) (p : BitVec 64) (s : State) :
    (mulRdEffect d p s).env = s.env := by unfold mulRdEffect; split <;> rfl
@[simp] theorem mulRdEffect_events (d : BitVec 3) (p : BitVec 64) (s : State) :
    (mulRdEffect d p s).events = s.events := by unfold mulRdEffect; split <;> rfl
@[simp] theorem mulRdEffect_cfg (d : BitVec 3) (p : BitVec 64) (s : State) :
    (mulRdEffect d p s).cfg = s.cfg := by unfold mulRdEffect; split <;> rfl

@[simp] theorem changeISpm_gpr (n : BitVec 2) (f : SpmBank → SpmBank) (s : State) :
    (changeISpm n f s).gpr = s.gpr := by rfl
@[simp] theorem changeISpm_pc (n : BitVec 2) (f : SpmBank → SpmBank) (s : State) :
    (changeISpm n f s).pc = s.pc := by rfl
@[simp] theorem changeISpm_leris (n : BitVec 2) (f : SpmBank → SpmBank) (s : State) :
    (changeISpm n f s).leris = s.leris := by rfl
@[simp] theorem changeISpm_sr (n : BitVec 2) (f : SpmBank → SpmBank) (s : State) :
    (changeISpm n f s).sr = s.sr := by rfl
@[simp] theorem changeISpm_spr (n : BitVec 2) (f : SpmBank → SpmBank) (s : State) :
    (changeISpm n f s).spr = s.spr := by rfl
@[simp] theorem changeISpm_cp1 (n : BitVec 2) (f : SpmBank → SpmBank) (s : State) :
    (changeISpm n f s).cp1 = s.cp1 := by rfl
@[simp] theorem changeISpm_cp2 (n : BitVec 2) (f : SpmBank → SpmBank) (s : State) :
    (changeISpm n f s).cp2 = s.cp2 := by rfl
@[simp] theorem changeISpm_cp3 (n : BitVec 2) (f : SpmBank → SpmBank) (s : State) :
    (changeISpm n f s).cp3 = s.cp3 := by rfl
@[simp] theorem changeISpm_mem (n : BitVec 2) (f : SpmBank → SpmBank) (s : State) :
    (changeISpm n f s).mem = s.mem := by rfl
@[simp] theorem changeISpm_ispmMem (n : BitVec 2) (f : SpmBank → SpmBank) (s : State) :
    (changeISpm n f s).ispmMem = s.ispmMem := by rfl
@[simp] theorem changeISpm_dspmMem (n : BitVec 2) (f : SpmBank → SpmBank) (s : State) :
    (changeISpm n f s).dspmMem = s.dspmMem := by rfl
@[simp] theorem changeISpm_halted (n : BitVec 2) (f : SpmBank → SpmBank) (s : State) :
    (changeISpm n f s).halted = s.halted := by rfl
@[simp] theorem changeISpm_lockup (n : BitVec 2) (f : SpmBank → SpmBank) (s : State) :
    (changeISpm n f s).lockup = s.lockup := by rfl
@[simp] theorem changeISpm_stale (n : BitVec 2) (f : SpmBank → SpmBank) (s : State) :
    (changeISpm n f s).stale = s.stale := by rfl
@[simp] theorem changeISpm_env (n : BitVec 2) (f : SpmBank → SpmBank) (s : State) :
    (changeISpm n f s).env = s.env := by rfl
@[simp] theorem changeISpm_events (n : BitVec 2) (f : SpmBank → SpmBank) (s : State) :
    (changeISpm n f s).events = s.events := by rfl
@[simp] theorem changeISpm_draws (n : BitVec 2) (f : SpmBank → SpmBank) (s : State) :
    (changeISpm n f s).draws = s.draws := by rfl
@[simp] theorem changeISpm_cfg (n : BitVec 2) (f : SpmBank → SpmBank) (s : State) :
    (changeISpm n f s).cfg = s.cfg := by rfl

@[simp] theorem changeDSpm_gpr (n : BitVec 2) (f : SpmBank → SpmBank) (s : State) :
    (changeDSpm n f s).gpr = s.gpr := by rfl
@[simp] theorem changeDSpm_pc (n : BitVec 2) (f : SpmBank → SpmBank) (s : State) :
    (changeDSpm n f s).pc = s.pc := by rfl
@[simp] theorem changeDSpm_leris (n : BitVec 2) (f : SpmBank → SpmBank) (s : State) :
    (changeDSpm n f s).leris = s.leris := by rfl
@[simp] theorem changeDSpm_sr (n : BitVec 2) (f : SpmBank → SpmBank) (s : State) :
    (changeDSpm n f s).sr = s.sr := by rfl
@[simp] theorem changeDSpm_spr (n : BitVec 2) (f : SpmBank → SpmBank) (s : State) :
    (changeDSpm n f s).spr = s.spr := by rfl
@[simp] theorem changeDSpm_cp1 (n : BitVec 2) (f : SpmBank → SpmBank) (s : State) :
    (changeDSpm n f s).cp1 = s.cp1 := by rfl
@[simp] theorem changeDSpm_cp2 (n : BitVec 2) (f : SpmBank → SpmBank) (s : State) :
    (changeDSpm n f s).cp2 = s.cp2 := by rfl
@[simp] theorem changeDSpm_cp3 (n : BitVec 2) (f : SpmBank → SpmBank) (s : State) :
    (changeDSpm n f s).cp3 = s.cp3 := by rfl
@[simp] theorem changeDSpm_mem (n : BitVec 2) (f : SpmBank → SpmBank) (s : State) :
    (changeDSpm n f s).mem = s.mem := by rfl
@[simp] theorem changeDSpm_ispmMem (n : BitVec 2) (f : SpmBank → SpmBank) (s : State) :
    (changeDSpm n f s).ispmMem = s.ispmMem := by rfl
@[simp] theorem changeDSpm_dspmMem (n : BitVec 2) (f : SpmBank → SpmBank) (s : State) :
    (changeDSpm n f s).dspmMem = s.dspmMem := by rfl
@[simp] theorem changeDSpm_halted (n : BitVec 2) (f : SpmBank → SpmBank) (s : State) :
    (changeDSpm n f s).halted = s.halted := by rfl
@[simp] theorem changeDSpm_lockup (n : BitVec 2) (f : SpmBank → SpmBank) (s : State) :
    (changeDSpm n f s).lockup = s.lockup := by rfl
@[simp] theorem changeDSpm_stale (n : BitVec 2) (f : SpmBank → SpmBank) (s : State) :
    (changeDSpm n f s).stale = s.stale := by rfl
@[simp] theorem changeDSpm_env (n : BitVec 2) (f : SpmBank → SpmBank) (s : State) :
    (changeDSpm n f s).env = s.env := by rfl
@[simp] theorem changeDSpm_events (n : BitVec 2) (f : SpmBank → SpmBank) (s : State) :
    (changeDSpm n f s).events = s.events := by rfl
@[simp] theorem changeDSpm_draws (n : BitVec 2) (f : SpmBank → SpmBank) (s : State) :
    (changeDSpm n f s).draws = s.draws := by rfl
@[simp] theorem changeDSpm_cfg (n : BitVec 2) (f : SpmBank → SpmBank) (s : State) :
    (changeDSpm n f s).cfg = s.cfg := by rfl

@[simp] theorem stepCounter_gpr (c : BitVec 1) (s : State) :
    (stepCounter c s).gpr = s.gpr := by unfold stepCounter; dsimp only; split <;> simp
@[simp] theorem stepCounter_pc (c : BitVec 1) (s : State) :
    (stepCounter c s).pc = s.pc := by unfold stepCounter; dsimp only; split <;> simp
@[simp] theorem stepCounter_leris (c : BitVec 1) (s : State) :
    (stepCounter c s).leris = s.leris := by unfold stepCounter; dsimp only; split <;> simp
@[simp] theorem stepCounter_scp (c : BitVec 1) (s : State) :
    (stepCounter c s).scp = s.scp := by unfold stepCounter; dsimp only; split <;> simp
@[simp] theorem stepCounter_cp1 (c : BitVec 1) (s : State) :
    (stepCounter c s).cp1 = s.cp1 := by unfold stepCounter; dsimp only; split <;> simp
@[simp] theorem stepCounter_cp2 (c : BitVec 1) (s : State) :
    (stepCounter c s).cp2 = s.cp2 := by unfold stepCounter; dsimp only; split <;> simp
@[simp] theorem stepCounter_cp3 (c : BitVec 1) (s : State) :
    (stepCounter c s).cp3 = s.cp3 := by unfold stepCounter; dsimp only; split <;> simp
@[simp] theorem stepCounter_mem (c : BitVec 1) (s : State) :
    (stepCounter c s).mem = s.mem := by unfold stepCounter; dsimp only; split <;> simp
@[simp] theorem stepCounter_ispmMem (c : BitVec 1) (s : State) :
    (stepCounter c s).ispmMem = s.ispmMem := by unfold stepCounter; dsimp only; split <;> simp
@[simp] theorem stepCounter_dspmMem (c : BitVec 1) (s : State) :
    (stepCounter c s).dspmMem = s.dspmMem := by unfold stepCounter; dsimp only; split <;> simp
@[simp] theorem stepCounter_halted (c : BitVec 1) (s : State) :
    (stepCounter c s).halted = s.halted := by unfold stepCounter; dsimp only; split <;> simp
@[simp] theorem stepCounter_lockup (c : BitVec 1) (s : State) :
    (stepCounter c s).lockup = s.lockup := by unfold stepCounter; dsimp only; split <;> simp
@[simp] theorem stepCounter_stale (c : BitVec 1) (s : State) :
    (stepCounter c s).stale = s.stale := by unfold stepCounter; dsimp only; split <;> simp
@[simp] theorem stepCounter_env (c : BitVec 1) (s : State) :
    (stepCounter c s).env = s.env := by unfold stepCounter; dsimp only; split <;> simp
@[simp] theorem stepCounter_events (c : BitVec 1) (s : State) :
    (stepCounter c s).events = s.events := by unfold stepCounter; dsimp only; split <;> simp
@[simp] theorem stepCounter_draws (c : BitVec 1) (s : State) :
    (stepCounter c s).draws = s.draws := by unfold stepCounter; dsimp only; split <;> simp
@[simp] theorem stepCounter_cfg (c : BitVec 1) (s : State) :
    (stepCounter c s).cfg = s.cfg := by unfold stepCounter; dsimp only; split <;> simp

end Sys2Proof.Machine
end

