-- ==== Sys2Proof/Laws/Registers.lean ====
section
/-! SUPPORT. Reading registers after writing them, and the frames that follow from equal fields. -/

namespace Sys2Proof.Machine

open Sys2Proof.Safety

theorem readReg_writeReg (s : State) (r q : Reg) (v : Word) :
    readReg (writeReg s r v) q = if q = r then v else readReg s q := by
  unfold readReg
  simp only [writeReg_gpr, Vector.getElem_set]
  by_cases h : q = r
  · subst h; simp
  · have : r.toNat ≠ q.toNat := fun e => h (BitVec.eq_of_toNat_eq e.symm)
    simp [h, this]

@[simp] theorem readReg_writeReg_same (s : State) (r : Reg) (v : Word) : readReg (writeReg s r v) r = v := by
  simp [readReg_writeReg]

theorem readReg_writeReg_other {s : State} {r q : Reg} (v : Word) (h : q ≠ r) :
    readReg (writeReg s r v) q = readReg s q := by
  simp [readReg_writeReg, h]

/-- The general registers are read from one field. -/
theorem readReg_of_gpr {s t : State} (h : t.gpr = s.gpr) (r : Reg) : readReg t r = readReg s r := by
  unfold readReg; rw [h]

theorem keepsGprs_of_gpr {s t : State} (h : t.gpr = s.gpr) (l : List Reg) : KeepsGprs s t l :=
  fun r _ => readReg_of_gpr h r

/-- The bytes are read from three fields. -/
theorem byteAt_of_storages {s t : State} (h : t.mem = s.mem) (hi : t.ispmMem = s.ispmMem)
    (hd : t.dspmMem = s.dspmMem) (l : Loc) : t.byteAt l = s.byteAt l := by
  obtain ⟨sp, a⟩ := l
  cases sp <;> simp [State.byteAt, State.storage, *]

theorem keepsMemory_of_storages {s t : State} (h : t.mem = s.mem) (hi : t.ispmMem = s.ispmMem)
    (hd : t.dspmMem = s.dspmMem) : KeepsMemory s t := fun l => byteAt_of_storages h hi hd l

/-- A jump ends the unit at its target. -/
theorem unitEnds_jumpTo (a : Word) (s : State) : UnitEnds (jumpTo a s) a := ⟨rfl, rfl, rfl⟩

theorem unitEnds_retire (s : State) : UnitEnds (retire s) (nextAddr s) := ⟨rfl, rfl, rfl⟩

/-- SP after it is written, in either mode. -/
theorem readSp_writeSp (s : State) (v : Word) : readSp (writeSp s v) = v &&& 0xFFFFFFFC := by
  unfold readSp writeSp
  by_cases h : isUser s = true
  · simp [h]; simp [isUser] at *; simp [h]
  · simp [h]; simp [isUser] at *; simp [h]

/-- The mode is read from two fields of SR. -/
theorem isUser_iff (s : State) : isUser s = true ↔ s.sr.modeHi = true ∧ s.sr.modeLo = false := by
  unfold isUser SR.mode
  cases s.sr.modeHi <;> cases s.sr.modeLo <;> decide

/-! ### Instructions that write registers alone -/

/-- Everything but the general and special registers, the flags, pc, the unit and the free values is the
same. -/
structure SameAround (s u : State) : Prop where
  mem : u.mem = s.mem
  ispmMem : u.ispmMem = s.ispmMem
  dspmMem : u.dspmMem = s.dspmMem
  systemBits : KeepsSystemBits s u
  scp : u.scp = s.scp
  coprocs : KeepsCoprocs s u
  platform : KeepsPlatform s u
  stale : u.stale = s.stale

theorem SameAround.refl (s : State) : SameAround s s :=
  ⟨rfl, rfl, rfl, ⟨rfl, rfl, rfl, rfl, rfl, rfl, rfl⟩, rfl, ⟨rfl, rfl, rfl⟩, ⟨rfl, rfl, rfl, rfl, rfl⟩, rfl⟩

theorem sameAround_sr {s : State} {sr : SR} (h : KeepsSystemBits s { s with sr := sr }) :
    SameAround s { s with sr := sr } :=
  ⟨rfl, rfl, rfl, h, rfl, ⟨rfl, rfl, rfl⟩, ⟨rfl, rfl, rfl, rfl, rfl⟩, rfl⟩

theorem sameAround_spr (s : State) (spr : Spr) : SameAround s { s with spr := spr } :=
  ⟨rfl, rfl, rfl, ⟨rfl, rfl, rfl, rfl, rfl, rfl, rfl⟩, rfl, ⟨rfl, rfl, rfl⟩, ⟨rfl, rfl, rfl, rfl, rfl⟩, rfl⟩

theorem SameAround.keepsRest {s u : State} (h : SameAround s u) : KeepsRest s u :=
  ⟨h.systemBits, keepsMemory_of_storages h.mem h.ispmMem h.dspmMem, h.scp, h.coprocs, h.platform, h.stale⟩

/-- A unit that ends by writing one general register. -/
theorem writesReg_retire {s u : State} (dst : Reg) (v : Word) (hg : u.gpr = s.gpr) (hs : u.spr = s.spr)
    (ha : SameAround s u) (hn : nextAddr u = nextAddr s) : WritesReg s (retire (writeReg u dst v)) dst v := by
  refine ⟨?_, ?_, hs, ha.keepsRest, ?_⟩
  · exact (readReg_of_gpr (s := writeReg u dst v) rfl _).trans (readReg_writeReg_same u dst v)
  · intro r h
    refine (readReg_of_gpr (s := writeReg u dst v) rfl r).trans ?_
    exact (readReg_writeReg_other _ (by simpa using h)).trans (readReg_of_gpr hg r)
  · rw [← hn]; exact unitEnds_retire _

/-- A unit that ends with the special registers `spr` and no general register written. -/
theorem writesSpecial_retire {s u : State} (hg : u.gpr = s.gpr) (ha : SameAround s u)
    (hn : nextAddr u = nextAddr s) : WritesSpecial s (retire u) u.spr :=
  ⟨fun r _ => readReg_of_gpr hg r, rfl, ha.keepsRest, hn ▸ unitEnds_retire u⟩

end Sys2Proof.Machine
end

