-- ==== Sys2Proof/Laws/Access.lean ====
section
/-! SUPPORT. What one memory access can do: `Accessed` says once what any number of accesses may leave
different, and every part of the access path is shown to stay within it. -/

namespace Sys2Proof.Machine

open Sys2Proof.Safety

/-- Everything that accesses leave as it was; what may differ is memory, the stale halfwords, device
inputs and outputs, the count of free values, the latches of the system coprocessor, and the dirty and
accessed bits of TLB entries. -/
structure Accessed (s t : State) : Prop where
  gpr : t.gpr = s.gpr
  pc : t.pc = s.pc
  leris : t.leris = s.leris
  sr : t.sr = s.sr
  spr : t.spr = s.spr
  cp1 : t.cp1 = s.cp1
  cp2 : t.cp2 = s.cp2
  cp3 : t.cp3 = s.cp3
  halted : t.halted = s.halted
  lockup : t.lockup = s.lockup
  cfg : t.cfg = s.cfg
  boundaries : t.env.boundaries = s.env.boundaries
  gapIndex : t.scp.gapIndex = s.scp.gapIndex
  tlbIndex : t.scp.tlbIndex = s.scp.tlbIndex
  subBankIndex : t.scp.subBankIndex = s.scp.subBankIndex
  subBanks : t.scp.subBanks = s.scp.subBanks
  memoryBank : t.scp.memoryBank = s.scp.memoryBank
  vectorBase : t.scp.vectorBase = s.scp.vectorBase
  backupIr : t.scp.backupIr = s.scp.backupIr
  backupEr : t.scp.backupEr = s.scp.backupEr
  backupPc : t.scp.backupPc = s.scp.backupPc
  pid : t.scp.pid = s.scp.pid
  icacheLock : t.scp.icacheLock = s.scp.icacheLock
  dcacheLock : t.scp.dcacheLock = s.scp.dcacheLock
  spm : { t.scp.spm with excStatus := 0 } = { s.scp.spm with excStatus := 0 }
  tlbPage : ∀ i, (readTlb t i).ppn = (readTlb s i).ppn
  tlbWord : ∀ i, (readTlb t i).vword &&& ~~~(0x22#32) = (readTlb s i).vword &&& ~~~(0x22#32)
  pending : (s.scp.pending = true ↔ s.scp.pendingCode ≠ 0b1111) →
    (t.scp.pending = true ↔ t.scp.pendingCode ≠ 0b1111)
  memWf : s.mem.wf = true → t.mem.wf = true
  ispmWf : s.ispmMem.wf = true → t.ispmMem.wf = true
  dspmWf : s.dspmMem.wf = true → t.dspmMem.wf = true

theorem Accessed.refl (s : State) : Accessed s s := by constructor <;> first | rfl | exact fun h => h | exact fun _ => rfl

theorem Accessed.trans {s t u : State} (a : Accessed s t) (b : Accessed t u) : Accessed s u where
  gpr := b.gpr.trans a.gpr
  pc := b.pc.trans a.pc
  leris := b.leris.trans a.leris
  sr := b.sr.trans a.sr
  spr := b.spr.trans a.spr
  cp1 := b.cp1.trans a.cp1
  cp2 := b.cp2.trans a.cp2
  cp3 := b.cp3.trans a.cp3
  halted := b.halted.trans a.halted
  lockup := b.lockup.trans a.lockup
  cfg := b.cfg.trans a.cfg
  boundaries := b.boundaries.trans a.boundaries
  gapIndex := b.gapIndex.trans a.gapIndex
  tlbIndex := b.tlbIndex.trans a.tlbIndex
  subBankIndex := b.subBankIndex.trans a.subBankIndex
  subBanks := b.subBanks.trans a.subBanks
  memoryBank := b.memoryBank.trans a.memoryBank
  vectorBase := b.vectorBase.trans a.vectorBase
  backupIr := b.backupIr.trans a.backupIr
  backupEr := b.backupEr.trans a.backupEr
  backupPc := b.backupPc.trans a.backupPc
  pid := b.pid.trans a.pid
  icacheLock := b.icacheLock.trans a.icacheLock
  dcacheLock := b.dcacheLock.trans a.dcacheLock
  spm := b.spm.trans a.spm
  tlbPage i := (b.tlbPage i).trans (a.tlbPage i)
  tlbWord i := (b.tlbWord i).trans (a.tlbWord i)
  pending h := b.pending (a.pending h)
  memWf h := b.memWf (a.memWf h)
  ispmWf h := b.ispmWf (a.ispmWf h)
  dspmWf h := b.dspmWf (a.dspmWf h)

/-! ### The parts of the path -/

theorem accessed_latchScp (code : BitVec 4) (s : State) (h : code ≠ 0b1111) :
    Accessed s (latchScp code s) := by
  constructor <;> first | rfl | exact fun h => h | exact fun _ => rfl | skip
  exact fun _ => ⟨fun _ => h, fun _ => rfl⟩

theorem accessed_latchMiss (k : AccessKind) (va : Word) (s : State) : Accessed s (latchMiss k va s) := by
  cases k <;> constructor <;> first | rfl | exact fun h => h | exact fun _ => rfl

theorem readTlb_writeTlb (s : State) (i j : BitVec 8) (e : TlbEntry) :
    readTlb (writeTlb s i e) j = if i = j then e else readTlb s j := by
  unfold readTlb
  simp only [writeTlb_scp, Vector.getElem_set]
  by_cases h : i = j
  · subst h; simp
  · simp [h, BitVec.toNat_inj.not.mpr h]

theorem accessed_touchTlb (k : AccessKind) (i : BitVec 8) (s : State) : Accessed s (touchTlb k i s) := by
  have hp : ∀ j, (readTlb (touchTlb k i s) j).ppn = (readTlb s j).ppn := by
    intro j
    cases k <;> simp only [touchTlb, readTlb_writeTlb] <;> split <;> simp_all
  have hw : ∀ j, (readTlb (touchTlb k i s) j).vword &&& ~~~(0x22#32)
      = (readTlb s j).vword &&& ~~~(0x22#32) := by
    intro j
    cases k <;> simp only [touchTlb, readTlb_writeTlb] <;> split <;>
      first
      | rfl
      | (rename_i h; subst h; apply BitVec.eq_of_getLsbD_eq; intro n hn; interval_cases n <;> simp)
  cases k <;> constructor <;> first | rfl | exact hp | exact hw | exact fun h => h

/-- What an answered part leaves. -/
def AccKeeps {α : Type} (s : State) (a : Acc α) : Prop :=
  match a with
  | .ok _ t => Accessed s t
  | .raise _ t => Accessed s t
  | .fault _ => True

theorem AccKeeps.of_accessed {α : Type} {s t : State} {a : Acc α} (h : Accessed s t) (k : AccKeeps t a) :
    AccKeeps s a := by
  cases a with
  | ok v u => exact h.trans k
  | raise o u => exact h.trans k
  | fault r => trivial

theorem accKeeps_andThen {α β : Type} {s : State} {a : Acc α} {f : α → State → Acc β}
    (ha : AccKeeps s a) (hf : ∀ v t, AccKeeps t (f v t)) : AccKeeps s (andThen a f) := by
  cases a with
  | ok v t => exact AccKeeps.of_accessed ha (hf v t)
  | raise o t => exact ha
  | fault r => trivial

theorem violationCode_ne (k : AccessKind) : violationCode k ≠ 0b1111 := by cases k <;> decide

theorem missCode_ne (k : AccessKind) : missCode k ≠ 0b1111 := by cases k <;> decide

theorem accKeeps_raiseScp {α : Type} {code : BitVec 4} (s : State) (h : code ≠ 0b1111) :
    AccKeeps s (raiseScp code s : Acc α) := accessed_latchScp code s h

theorem accKeeps_raiseTlb {α : Type} (k : AccessKind) {code : BitVec 4} (va : Word) (s : State)
    (h : code ≠ 0b1111) : AccKeeps s (raiseTlb k code va s : Acc α) :=
  (accessed_latchMiss k va s).trans (accessed_latchScp code _ h)

theorem accKeeps_raiseSpmViolation {α : Type} (k : AccessKind) (s : State) :
    AccKeeps s (raiseSpmViolation k s : Acc α) := by
  refine Accessed.trans (t := _) ?_ (accessed_latchScp _ _ (violationCode_ne k))
  constructor <;> first | rfl | exact fun h => h | exact fun _ => rfl

theorem accKeeps_locateBus (k : AccessKind) (pa : Word) (cc : BitVec 2) (s : State) :
    AccKeeps s (locateBus k pa cc s) := by
  unfold locateBus
  split
  · exact Accessed.refl s
  · exact Accessed.refl s
  · exact Accessed.refl s
  · cases k <;> constructor <;> first | rfl | exact fun h => h | exact fun _ => rfl

/-- Whatever `locate` answers, the state stays within `Accessed`. -/
theorem accKeeps_locate (k : AccessKind) (u : Bool) (z : AccessSize) (va : Word) (s : State) :
    AccKeeps s (locate k u z va s) := by
  unfold locate
  split
  · exact accKeeps_raiseScp s (by decide)
  · split
    · unfold locateSpm
      split; · trivial
      split; · trivial
      split; · trivial
      split
      · exact accKeeps_raiseSpmViolation k s
      · exact Accessed.refl s
    · split
      · unfold locateTlb
        split
        · exact accKeeps_raiseTlb k va s (missCode_ne k)
        · dsimp only
          split
          · exact accKeeps_raiseTlb k va s (by decide)
          · split
            · exact accKeeps_raiseTlb k va s (violationCode_ne k)
            · exact AccKeeps.of_accessed (accessed_touchTlb k _ s) (accKeeps_locateBus k _ _ _)
        · trivial
      · unfold locateMbmu
        split
        · split
          · exact accKeeps_raiseScp s (violationCode_ne k)
          · exact accKeeps_locateBus k _ _ s
        · split
          · exact accKeeps_raiseScp s (violationCode_ne k)
          · exact accKeeps_locateBus k _ _ s
        · trivial

theorem accessed_draw (s : State) : Accessed s (draw s).2 := by
  constructor <;> first | rfl | exact fun h => h | exact fun _ => rfl

theorem accessed_deviceRead (s : State) : Accessed s (deviceRead s).2 := by
  unfold deviceRead
  split
  · exact accessed_draw s
  · constructor <;> first | rfl | exact fun h => h | exact fun _ => rfl

theorem accessed_readTarget (z : AccessSize) (t : Target) (s : State) : Accessed s (readTarget z t s).2 := by
  cases t
  · exact Accessed.refl s
  · exact accessed_deviceRead s
  · exact accessed_draw s

theorem accessed_storeAt (z : AccessSize) (l : Loc) (cc : BitVec 2) (v : Word) (s : State) :
    Accessed s (storeAt z l cc v s) := by
  unfold storeAt
  obtain ⟨sp, a⟩ := l
  cases sp <;> constructor <;>
    first
    | rfl
    | exact fun h => h
    | exact fun _ => rfl
    | exact fun h => wf_writeSized _ _ _ _ h

theorem accessed_writeTarget (z : AccessSize) (t : Target) (v : Word) (s : State) :
    Accessed s (writeTarget z t v s) := by
  cases t
  · exact accessed_storeAt _ _ _ _ _
  · constructor <;> first | rfl | exact fun h => h | exact fun _ => rfl
  · exact Accessed.refl s

theorem accKeeps_memReadAs (u : Bool) (z : AccessSize) (va : Word) (s : State) :
    AccKeeps s (memReadAs u z va s) :=
  accKeeps_andThen (accKeeps_locate _ _ _ _ _) fun t s => accessed_readTarget z t s

theorem accKeeps_memWriteAs (u : Bool) (z : AccessSize) (va v : Word) (s : State) :
    AccKeeps s (memWriteAs u z va v s) :=
  accKeeps_andThen (accKeeps_locate _ _ _ _ _) fun t s => accessed_writeTarget z t v s

theorem accKeeps_memRead (z : AccessSize) (va : Word) (s : State) : AccKeeps s (memRead z va s) :=
  accKeeps_memReadAs _ _ _ _

theorem accKeeps_memWrite (z : AccessSize) (va v : Word) (s : State) : AccKeeps s (memWrite z va v s) :=
  accKeeps_memWriteAs _ _ _ _ _

theorem accessed_fetchFrom (l : Loc) (cc : BitVec 2) (s : State) : Accessed s (fetchFrom l cc s).2 := by
  unfold fetchFrom
  split
  · exact Accessed.refl s
  · exact accessed_draw s

theorem accKeeps_fetchHalf (s : State) : AccKeeps s (fetchHalf s) := by
  refine accKeeps_andThen (accKeeps_locate _ _ _ _ _) fun t s => ?_
  cases t
  · exact accessed_fetchFrom _ _ _
  · exact accessed_readTarget _ _ _
  · exact accessed_readTarget _ _ _

/-! ### What a found target says -/

/-- A `locate` that finds a target has changed nothing but dirty and accessed bits. -/
theorem locate_ok {k : AccessKind} {u : Bool} {z : AccessSize} {va : Word} {s t : State} {g : Target}
    (h : locate k u z va s = .ok g t) : t = s ∨ ∃ slot, t = touchTlb k slot s := by
  have bus : ∀ pa cc s' t' g', locateBus k pa cc s' = .ok g' t' → t' = s' := by
    intro pa cc s' t' g' hb
    unfold locateBus at hb
    split at hb
    · cases hb; rfl
    · cases hb; rfl
    · cases hb; rfl
    · cases k <;> cases hb
  unfold locate at h
  split at h
  · cases h
  · split at h
    · unfold locateSpm at h
      split at h; · cases h
      split at h; · cases h
      split at h; · cases h
      split at h
      · cases h
      · cases h; exact .inl rfl
    · split at h
      · unfold locateTlb at h
        split at h
        · cases h
        · dsimp only at h
          split at h
          · cases h
          · split at h
            · cases h
            · exact .inr ⟨_, bus _ _ _ _ _ h⟩
        · cases h
      · unfold locateMbmu at h
        split at h
        · split at h
          · cases h
          · exact .inl (bus _ _ _ _ _ h)
        · split at h
          · cases h
          · exact .inl (bus _ _ _ _ _ h)
        · cases h

/-- What finding a target leaves: nothing but dirty and accessed bits. -/
theorem locate_onlyTlbTouched {k : AccessKind} {u : Bool} {z : AccessSize} {va : Word} {s t : State}
    {g : Target} (h : locate k u z va s = .ok g t) : OnlyTlbTouched s t := by
  have ha := accKeeps_locate k u z va s
  rw [h] at ha
  refine ⟨?_, fun slot => ⟨ha.tlbPage slot, ha.tlbWord slot⟩⟩
  rcases locate_ok h with rfl | ⟨slot, rfl⟩
  · exact ⟨t.scp.tlb, rfl⟩
  · cases k <;> exact ⟨_, rfl⟩

/-- The three storages are the same after an answered part. -/
def AccStorages {α : Type} (s : State) (a : Acc α) : Prop :=
  match a with
  | .ok _ t => t.mem = s.mem ∧ t.ispmMem = s.ispmMem ∧ t.dspmMem = s.dspmMem
  | .raise _ t => t.mem = s.mem ∧ t.ispmMem = s.ispmMem ∧ t.dspmMem = s.dspmMem
  | .fault _ => True

theorem accStorages_locateBus (k : AccessKind) (pa : Word) (cc : BitVec 2) (s : State) :
    AccStorages s (locateBus k pa cc s) := by
  unfold locateBus
  split
  · exact ⟨rfl, rfl, rfl⟩
  · exact ⟨rfl, rfl, rfl⟩
  · exact ⟨rfl, rfl, rfl⟩
  · cases k <;> exact ⟨rfl, rfl, rfl⟩

/-- Looking for a target changes no memory, whatever it answers. -/
theorem accStorages_locate (k : AccessKind) (u : Bool) (z : AccessSize) (va : Word) (s : State) :
    AccStorages s (locate k u z va s) := by
  unfold locate
  split
  · exact ⟨rfl, rfl, rfl⟩
  · split
    · unfold locateSpm
      split; · trivial
      split; · trivial
      split; · trivial
      split
      · cases k <;> exact ⟨rfl, rfl, rfl⟩
      · exact ⟨rfl, rfl, rfl⟩
    · split
      · unfold locateTlb
        split
        · cases k <;> exact ⟨rfl, rfl, rfl⟩
        · dsimp only
          split
          · cases k <;> exact ⟨rfl, rfl, rfl⟩
          · split
            · cases k <;> exact ⟨rfl, rfl, rfl⟩
            · rename_i slot _ _ _
              cases k <;> exact accStorages_locateBus _ _ _ (touchTlb _ slot s)
        · trivial
      · unfold locateMbmu
        split
        · split
          · exact ⟨rfl, rfl, rfl⟩
          · exact accStorages_locateBus k _ _ s
        · split
          · exact ⟨rfl, rfl, rfl⟩
          · exact accStorages_locateBus k _ _ s
        · trivial

/-- A `locate` that raises does so with the SCP or the Bus Error vector. -/
theorem locate_raise {k : AccessKind} {u : Bool} {z : AccessSize} {va off : Word} {s t : State}
    (h : locate k u z va s = .raise off t) : off = 0x20 ∨ off = 0x10 := by
  have bus : ∀ pa cc s' t', locateBus k pa cc s' = .raise off t' → off = 0x10 := by
    intro pa cc s' t' hb
    unfold locateBus at hb
    split at hb
    · cases hb
    · cases hb
    · cases hb
    · cases k <;> (cases hb; rfl)
  unfold locate at h
  split at h
  · cases h; exact .inl rfl
  · split at h
    · unfold locateSpm at h
      split at h; · cases h
      split at h; · cases h
      split at h; · cases h
      split at h
      · cases h; exact .inl rfl
      · cases h
    · split at h
      · unfold locateTlb at h
        split at h
        · cases h; exact .inl rfl
        · dsimp only at h
          split at h
          · cases h; exact .inl rfl
          · split at h
            · cases h; exact .inl rfl
            · exact .inr (bus _ _ _ _ h)
        · cases h
      · unfold locateMbmu at h
        split at h
        · split at h
          · cases h; exact .inl rfl
          · exact .inr (bus _ _ _ _ h)
        · split at h
          · cases h; exact .inl rfl
          · exact .inr (bus _ _ _ _ h)
        · cases h

/-- What a raised access leaves as it was. -/
theorem locate_raise_frame {k : AccessKind} {us : Bool} {z : AccessSize} {va off : Word} {s u : State}
    (h : locate k us z va s = .raise off u) :
    u.gpr = s.gpr ∧ u.spr = s.spr ∧ u.sr = s.sr ∧ u.pc = s.pc ∧ KeepsMemory s u
      ∧ (off = 0x20 ∨ off = 0x10) := by
  have a := accKeeps_locate k us z va s
  have b := accStorages_locate k us z va s
  rw [h] at a b
  exact ⟨a.gpr, a.spr, a.sr, a.pc, keepsMemory_of_storages b.1 b.2.1 b.2.2, locate_raise h⟩

/-- What reading a target can change. -/
theorem readTarget_frame (z : AccessSize) (g : Target) (u : State) :
    ∃ env draws, (readTarget z g u).2 = { u with env := env, draws := draws }
      ∧ env.boundaries = u.env.boundaries := by
  cases g
  · exact ⟨_, _, rfl, rfl⟩
  · simp only [readTarget, deviceRead]
    split
    · exact ⟨_, _, rfl, rfl⟩
    · exact ⟨_, _, rfl, rfl⟩
  · exact ⟨_, _, rfl, rfl⟩

/-- What writing a target can change. -/
theorem writeTarget_frame (z : AccessSize) (g : Target) (v : Word) (u : State) :
    ∃ mem i d st ev, writeTarget z g v u
      = { u with mem := mem, ispmMem := i, dspmMem := d, stale := st, events := ev } := by
  cases g
  · rename_i l cc
    obtain ⟨sp, a⟩ := l
    cases sp <;> exact ⟨_, _, _, _, _, rfl⟩
  · exact ⟨_, _, _, _, _, rfl⟩
  · exact ⟨_, _, _, _, _, rfl⟩

/-! ### Bytes -/

theorem valueBytes_storedByte (be : Bool) (z : AccessSize) (v : Word) (k : Nat) (h : k < sizeBytes z) :
    (valueBytes be z v).getD k 0 = storedByte be (sizeBytes z) k v := by
  cases be <;> cases z <;> simp only [sizeBytes] at h <;> interval_cases k <;> rfl

theorem truncateTo_toNat (z : AccessSize) (v : Word) :
    (truncateTo z v).toNat = v.toNat % 2 ^ (8 * sizeBytes z) := by
  cases z <;> simp [truncateTo, sizeBytes] <;> omega

theorem byteAt_storeAt (z : AccessSize) (l : Loc) (cc : BitVec 2) (v : Word) (s : State) (m : Loc) :
    (storeAt z l cc v s).byteAt m =
      if m.space = l.space ∧ l.addr ≤ m.addr ∧ m.addr < l.addr + sizeBytes z then
        (valueBytes s.sr.endian z v).getD (m.addr - l.addr) 0
      else s.byteAt m := by
  have hs : (storeAt z l cc v s).storage m.space
      = (s.withStorage l.space (writeSized s.sr.endian (s.storage l.space) l.addr z v)).storage m.space := by
    unfold storeAt; cases m.space <;> rfl
  unfold State.byteAt
  rw [hs]
  by_cases h : m.space = l.space
  · rw [h, storage_withStorage_same, readByte_writeSized]; simp
  · rw [storage_withStorage_other _ _ h]; simp [h]

/-- A store leaves every byte outside it as it was. -/
theorem keepsMemoryOutside_storeAt (z : AccessSize) (l : Loc) (cc : BitVec 2) (v : Word) (s : State) :
    KeepsMemoryOutside s (storeAt z l cc v s) l (sizeBytes z) := by
  intro m hm
  rw [byteAt_storeAt, if_neg]
  rintro ⟨h1, h2, h3⟩
  rcases hm with h | h | h
  · exact h h1
  · omega
  · omega

/-- A word that a store has left, read back. -/
theorem byteAt_stored (z : AccessSize) (l : Loc) (cc : BitVec 2) (v : Word) (s : State) (k : Nat)
    (h : k < sizeBytes z) : (storeAt z l cc v s).byteAt { l with addr := l.addr + k }
      = storedByte s.sr.endian (sizeBytes z) k v := by
  rw [byteAt_storeAt, if_pos ⟨rfl, by simp, by simp; omega⟩]
  simp only [Nat.add_sub_cancel_left]
  exact valueBytes_storedByte _ _ _ _ h

/-! ### Loads and stores that find a target -/

theorem loadReg_next {s u : State} {z : AccessSize} {ea : Word} {g : Target} (ext : Word → Word) (dst : Reg)
    (h : locate .read (isUser s) z ea s = .ok g u) : loadReg z ext ea dst s
      = .next (retire (writeReg (readTarget z g u).2 dst (ext (readTarget z g u).1))) := by
  simp [loadReg, memRead, memReadAs, h, andThen, conclude]

theorem storeReg_next {s u : State} {z : AccessSize} {ea v : Word} {g : Target}
    (h : locate .write (isUser s) z ea s = .ok g u) :
    storeReg z ea v s = .next (retire (writeTarget z g v u)) := by
  simp [storeReg, memWrite, memWriteAs, h, andThen, conclude]

end Sys2Proof.Machine
end

