-- ==== Sys2Proof/Laws/Bits.lean ====
section
/-! SUPPORT. Bit fields as numbers: concatenation, extraction and shifted insertion. -/

namespace Sys2Proof.Machine

theorem toNat_append {n m : Nat} (x : BitVec n) (y : BitVec m) : (x ++ y).toNat = x.toNat * 2 ^ m + y.toNat := by
  rw [BitVec.toNat_append, ← Nat.shiftLeft_add_eq_or_of_lt y.isLt, Nat.shiftLeft_eq]

theorem toNat_extract {n : Nat} (x : BitVec n) (lo k : Nat) :
    (x.extractLsb' lo k).toNat = x.toNat / 2 ^ lo % 2 ^ k := by
  rw [BitVec.extractLsb'_toNat, Nat.shiftRight_eq_div_pow]

/-- A word shifted up with a field in the bits it leaves. -/
theorem toNat_shift_or (x y : Word) (k : Nat) (hy : y.toNat < 2 ^ k) (hk : k ≤ 32) :
    ((x <<< k) ||| y).toNat = (x.toNat * 2 ^ k + y.toNat) % 2 ^ 32 := by
  have hp : 2 ^ (32 - k) * 2 ^ k = 2 ^ 32 := by rw [← pow_add]; congr 1; omega
  have e : (x.toNat <<< k) % 2 ^ 32 = (x.toNat % 2 ^ (32 - k)) <<< k := by
    rw [Nat.shiftLeft_eq, Nat.shiftLeft_eq, ← hp, Nat.mul_mod_mul_right]
  rw [BitVec.toNat_or, BitVec.toNat_shiftLeft, e, ← Nat.shiftLeft_add_eq_or_of_lt hy, Nat.shiftLeft_eq,
    ← hp, Nat.add_mod, Nat.mul_mod_mul_right, Nat.mod_eq_of_lt (a := y.toNat)]
  · have h : x.toNat % 2 ^ (32 - k) < 2 ^ (32 - k) := Nat.mod_lt _ (by positivity)
    exact (Nat.mod_eq_of_lt (by nlinarith)).symm
  · exact lt_of_lt_of_le hy (Nat.le_mul_of_pos_left _ (by positivity))

/-- The two halves of a double word. -/
theorem append_halves (p : BitVec 64) : p.extractLsb' 32 32 ++ p.extractLsb' 0 32 = p := by
  apply BitVec.eq_of_toNat_eq
  have := p.isLt
  rw [toNat_append, toNat_extract, toNat_extract]
  omega

end Sys2Proof.Machine
end

