-- ==== Sys2Proof/Laws/Flags.lean ====
section
/-! SUPPORT. The flag computations as facts about numbers. -/

namespace Sys2Proof.Machine

open Sys2Proof.Safety

theorem carryWord_toNat (c : Bool) : (carryWord c).toNat = c.toNat := by cases c <;> rfl

theorem addResult_toNat (a b : Word) (c : Bool) :
    (addResult a b c).toNat = (a.toNat + b.toNat + c.toNat) % 2 ^ 32 := by
  simp [addResult, BitVec.toNat_add, carryWord_toNat]

theorem subResult_toNat (a b : Word) (c : Bool) :
    ((subResult a b c).toNat : Int) = ((a.toNat : Int) - b.toNat - c.toNat) % 2 ^ 32 := by
  simp [subResult, BitVec.toNat_sub, carryWord_toNat]
  cases c <;> simp <;> omega

/-- `flagsNz` as the sign and the zero of the result. -/
theorem nzFlags_flagsNz (r : Word) (sr : SR) : NzFlags (flagsNz r sr) r := by
  constructor
  · simp [flagsNz]
  · simp [flagsNz, BitVec.msb_eq_toInt]

/-- `flagsAdd` as facts about the exact sum. -/
theorem addFlags_flagsAdd (a b : Word) (c : Bool) (sr : SR) : AddFlags (flagsAdd a b c sr) a b c := by
  have hr := addResult_toNat a b c
  have ha := BitVec.msb_eq_decide a
  have hb := BitVec.msb_eq_decide b
  have hm := BitVec.msb_eq_decide (addResult a b c)
  have ta := BitVec.toInt_eq_toNat_cond a
  have tb := BitVec.toInt_eq_toNat_cond b
  have := a.isLt
  have := b.isLt
  have := c.toNat_le
  refine ⟨?_, ?_, ?_, ?_⟩
  · simp [flagsAdd, flagsNz, carryOut]
  · simp [flagsAdd, flagsNz, ← BitVec.toNat_inj, hr]
  · simp [flagsAdd, flagsNz, hm, hr]
  · simp only [flagsAdd, flagsNz, addOverflow, ha, hb, hm, hr, ta, tb]
    simp
    split <;> split <;> omega

/-- `flagsSub` as facts about the exact difference. -/
theorem subFlags_flagsSub (a b : Word) (c : Bool) (sr : SR) : SubFlags (flagsSub a b c sr) a b c := by
  have hr := subResult_toNat a b c
  have ha := BitVec.msb_eq_decide a
  have hb := BitVec.msb_eq_decide b
  have hm := BitVec.msb_eq_decide (subResult a b c)
  have ta := BitVec.toInt_eq_toNat_cond a
  have tb := BitVec.toInt_eq_toNat_cond b
  have := a.isLt
  have := b.isLt
  have := c.toNat_le
  refine ⟨?_, ?_, ?_, ?_⟩
  · simp [flagsSub, flagsNz, borrowOut]
  · simp [flagsSub, flagsNz, ← BitVec.toNat_inj]; omega
  · simp [flagsSub, flagsNz, hm]; omega
  · simp only [flagsSub, flagsNz, subOverflow, ha, hb, hm, ta, tb]
    simp
    split <;> split <;> omega

/-- The alignment of the stack pointers as arithmetic. -/
theorem and_stackMask_toNat (x : Word) : (x &&& 0xFFFFFFFC).toNat = x.toNat / 4 * 4 := by
  have h : x &&& 0xFFFFFFFC#32 = (x >>> 2) <<< 2 := by
    apply BitVec.eq_of_getLsbD_eq
    intro i hi
    interval_cases i <;> simp
  rw [show (4294967292 : Word) = 4294967292#32 from rfl, h]
  simp [BitVec.toNat_shiftLeft, BitVec.toNat_ushiftRight, Nat.shiftRight_eq_div_pow, Nat.shiftLeft_eq]
  omega

end Sys2Proof.Machine
end

