-- ==== Sys2Proof/Laws/Arith.lean ====
section
/-! SUPPORT. Shifts, leading counts and operand assembly: what the shared operations give. -/

namespace Sys2Proof.Machine

open Sys2Proof.Safety

theorem extendLow4_toNat (er low : Word) :
    (extendLow4 er low).toNat = (er.toNat * 16 + low.toNat % 16) % 2 ^ 32 := by
  have h : (low &&& 0xF).toNat = low.toNat % 16 := by
    rw [BitVec.toNat_and]; exact Nat.and_two_pow_sub_one_eq_mod low.toNat 4
  unfold extendLow4
  rw [toNat_shift_or _ _ 4 (by rw [h]; omega) (by norm_num), h]
  norm_num

/-- Every shift completes: one register, Z and S of the result, V as it was, and C, unless the amount is
0, the last bit out. -/
theorem shiftInto_next (kind : ShiftKind) (dst : Reg) (amt : BitVec 5) (s : State) :
    ∃ t, shiftInto kind dst amt s = .next t ∧ WritesReg s t dst (shiftResult kind (readReg s dst) amt.toNat)
      ∧ NzFlags t.sr (shiftResult kind (readReg s dst) amt.toNat) ∧ t.sr.v = s.sr.v
      ∧ (0 < amt.toNat → t.sr.c = shiftCarry kind (readReg s dst) amt.toNat) := by
  by_cases h : amt = 0
  · subst h
    exact ⟨_, rfl, writesReg_retire (u := { (draw s).2 with sr := _ }) dst _ rfl rfl
      ⟨rfl, rfl, rfl, ⟨rfl, rfl, rfl, rfl, rfl, rfl, rfl⟩, rfl, ⟨rfl, rfl, rfl⟩, ⟨rfl, rfl, rfl, rfl, rfl⟩,
        rfl⟩ rfl,
      nzFlags_flagsNz _ { s.sr with c := (draw s).1.getLsbD 0 }, rfl, fun h => absurd h (by decide)⟩
  · have : shiftInto kind dst amt s = finishAlu dst (shiftResult kind (readReg s dst) amt.toNat)
        (flagsNz (shiftResult kind (readReg s dst) amt.toNat)
          { s.sr with c := shiftCarry kind (readReg s dst) amt.toNat }) s := by
      unfold shiftInto
      dsimp only
      rw [if_neg h]
    rw [this]
    exact ⟨_, rfl, writesReg_retire dst _ rfl rfl (sameAround_sr ⟨rfl, rfl, rfl, rfl, rfl, rfl, rfl⟩) rfl,
      nzFlags_flagsNz _ { s.sr with c := shiftCarry kind (readReg s dst) amt.toNat }, rfl, fun _ => rfl⟩

/-- The leading bits counted are of the kind, and the next one is not. -/
theorem leadingCount_facts (b : Bool) (v : Word) (n : Nat) : leadingCount b v n ≤ n
    ∧ (∀ i < n, n ≤ i + leadingCount b v n → v.getLsbD i = b)
    ∧ (leadingCount b v n < n → v.getLsbD (n - 1 - leadingCount b v n) = !b) := by
  induction n with
  | zero => simp [leadingCount]
  | succ n ih =>
    unfold leadingCount
    split
    · rename_i h
      obtain ⟨h1, h2, h3⟩ := ih
      refine ⟨by omega, ?_, ?_⟩
      · intro i hi hh
        by_cases e : i = n
        · rw [e, h]
        · exact h2 i (by omega) (by omega)
      · intro hh
        have := h3 (by omega)
        rw [← this]
        congr 1
        omega
    · rename_i h
      refine ⟨by omega, fun i hi hh => by omega, fun _ => ?_⟩
      simp
      revert h
      cases v.getLsbD n <;> cases b <;> simp

end Sys2Proof.Machine
end

