-- ==== Sys2Proof/Laws/Coproc.lean ====
section
/-! SUPPORT. The system coprocessor and the attached ones: what a write or a read of one of their registers
can change. -/

namespace Sys2Proof.Machine

/-! ### The system coprocessor -/

theorem gapRead_frame (index : Word) (s : State) : ∃ d, (gapRead index s).2 = { s with draws := d } := by
  unfold gapRead; split <;> exact ⟨_, rfl⟩

theorem scprRead_frame (n : BitVec 4) (s : State) : ∃ d, (scprRead n s).2 = { s with draws := d } := by
  unfold scprRead; split <;> first | exact ⟨_, rfl⟩ | exact gapRead_frame _ _

theorem gapWrite_frame (index v : Word) (s : State) : ∃ scp, gapWrite index v s = { s with scp := scp } := by
  unfold gapWrite; split <;> exact ⟨_, rfl⟩

theorem cacheCommand_frame (v : Word) (s : State) :
    ∃ scp stale draws, cacheCommand v s = { s with scp := scp, stale := stale, draws := draws } := by
  unfold cacheCommand
  split
  · exact ⟨_, _, _, rfl⟩
  · split
    · exact ⟨_, _, _, rfl⟩
    · dsimp only
      split <;> exact ⟨_, _, _, rfl⟩

/-- MVTC to the system coprocessor changes it alone, but for USP (SCPR13) and what SCPR11's cache commands
leave stale; the reserved registers change nothing. -/
theorem scprWrite_frame (n : BitVec 4) (v : Word) (s : State) : ∃ scp stale draws,
    scprWrite n v s = { s with
      scp := scp, stale := stale, draws := draws
      spr := { s.spr with usp := if n = 13 then v &&& 0xFFFFFFFC else s.spr.usp } }
      ∧ (n ≠ 11 → stale = s.stale) ∧ (n ∈ [0, 1, 2, 10, 13, 14] → scp = s.scp) := by
  have cases16 : ∀ n : BitVec 4, n = 0 ∨ n = 1 ∨ n = 2 ∨ n = 3 ∨ n = 4 ∨ n = 5 ∨ n = 6 ∨ n = 7 ∨ n = 8 ∨ n = 9
      ∨ n = 10 ∨ n = 11 ∨ n = 12 ∨ n = 13 ∨ n = 14 ∨ n = 15 := by decide
  have plain : ∀ (scp : Scp) (st : List Stale) (d : Nat) (m : BitVec 4), m ≠ 13 →
      scprWrite m v s = { s with scp := scp, stale := st, draws := d } →
      (m ≠ 11 → st = s.stale) → (m ∈ [0, 1, 2, 10, 13, 14] → scp = s.scp) →
      ∃ scp stale draws, scprWrite m v s = { s with
        scp := scp, stale := stale, draws := draws
        spr := { s.spr with usp := if m = 13 then v &&& 0xFFFFFFFC else s.spr.usp } }
        ∧ (m ≠ 11 → stale = s.stale) ∧ (m ∈ [0, 1, 2, 10, 13, 14] → scp = s.scp) :=
    fun scp st d m hm h h1 h2 => ⟨scp, st, d, by rw [h, if_neg hm], h1, h2⟩
  rcases cases16 n with h | h | h | h | h | h | h | h | h | h | h | h | h | h | h | h <;> subst h
  · exact plain s.scp _ _ _ (by decide) rfl (fun _ => rfl) (fun _ => rfl)
  · exact plain s.scp _ _ _ (by decide) rfl (fun _ => rfl) (fun _ => rfl)
  · exact plain s.scp _ _ _ (by decide) rfl (fun _ => rfl) (fun _ => rfl)
  · exact plain _ _ _ _ (by decide) rfl (fun _ => rfl) (fun h => absurd h (by decide))
  · obtain ⟨scp, h⟩ := gapWrite_frame s.scp.gapIndex v s
    exact plain scp s.stale s.draws _ (by decide) h (fun _ => rfl) (fun h => absurd h (by decide))
  · exact plain _ _ _ _ (by decide) rfl (fun _ => rfl) (fun h => absurd h (by decide))
  · by_cases hb : s.scp.tlbIndex.getLsbD 0 = true
    · exact plain _ s.stale s.draws _ (by decide) (if_pos hb) (fun _ => rfl) (fun h => absurd h (by decide))
    · exact plain _ s.stale s.draws _ (by decide) (if_neg hb) (fun _ => rfl) (fun h => absurd h (by decide))
  · exact plain _ _ _ _ (by decide) rfl (fun _ => rfl) (fun h => absurd h (by decide))
  · exact plain _ _ _ _ (by decide) rfl (fun _ => rfl) (fun h => absurd h (by decide))
  · exact plain _ _ _ _ (by decide) rfl (fun _ => rfl) (fun h => absurd h (by decide))
  · exact plain s.scp _ _ _ (by decide) rfl (fun _ => rfl) (fun _ => rfl)
  · obtain ⟨scp, st, d, h⟩ := cacheCommand_frame v s
    exact plain scp st d _ (by decide) h (fun h => absurd rfl h) (fun h => absurd h (by decide))
  · exact plain _ _ _ _ (by decide) rfl (fun _ => rfl) (fun h => absurd h (by decide))
  · exact ⟨s.scp, s.stale, s.draws, rfl, fun _ => rfl, fun _ => rfl⟩
  · exact plain s.scp _ _ _ (by decide) rfl (fun _ => rfl) (fun _ => rfl)
  · exact plain _ _ _ _ (by decide) rfl (fun _ => rfl) (fun h => absurd h (by decide))

/-- A written sub-bank, and the others as they were. -/
theorem subBankAt_writeSubBank (s : State) (k q : BitVec 3) (b : SubBank) :
    Safety.subBankAt (writeSubBank k b s) q = if q = k then b else Safety.subBankAt s q := by
  unfold Safety.subBankAt writeSubBank
  by_cases h : q = k
  · subst h; simp
  · have : k.toNat ≠ q.toNat := fun e => h (BitVec.eq_of_toNat_eq e.symm)
    simp [h, this]

/-- A changed iSPM register set, and the others as they were. -/
theorem spmBankAt_changeISpm (n : BitVec 2) (f : SpmBank → SpmBank) (s : State) (d : Bool) (q : BitVec 2) :
    Safety.spmBankAt d (changeISpm n f s) q
      = if d = false ∧ q = n then f (Safety.spmBankAt false s n) else Safety.spmBankAt d s q := by
  unfold Safety.spmBankAt changeISpm withSpm
  cases d
  · by_cases h : q = n
    · subst h; simp
    · have : n.toNat ≠ q.toNat := fun e => h (BitVec.eq_of_toNat_eq e.symm)
      simp [h, this]
  · simp

/-- A changed dSPM register set, and the others as they were. -/
theorem spmBankAt_changeDSpm (n : BitVec 2) (f : SpmBank → SpmBank) (s : State) (d : Bool) (q : BitVec 2) :
    Safety.spmBankAt d (changeDSpm n f s) q
      = if d = true ∧ q = n then f (Safety.spmBankAt true s n) else Safety.spmBankAt d s q := by
  unfold Safety.spmBankAt changeDSpm withSpm
  cases d
  · simp
  · by_cases h : q = n
    · subst h; simp
    · have : n.toNat ≠ q.toNat := fun e => h (BitVec.eq_of_toNat_eq e.symm)
      simp [h, this]

/-! ### Coprocessors 1 to 3 -/

theorem withHeld_frame (p : BitVec 2) (h : CoprocRegs) (s : State) :
    ∃ a b c, withHeld p h s = { s with cp1 := a, cp2 := b, cp3 := c } := by
  unfold withHeld; split <;> exact ⟨_, _, _, rfl⟩

/-- What `withHeld` leaves: the one coprocessor holds `h`, the others are as they were. -/
theorem coproc_withHeld (s u : State) (h1 : u.cp1 = s.cp1) (h2 : u.cp2 = s.cp2) (h3 : u.cp3 = s.cp3)
    (p : BitVec 2) (hp : p ≠ 0) (h : CoprocRegs) :
    coproc (withHeld p h u) p = { coproc s p with held := h }
      ∧ ∀ q : BitVec 2, q ≠ 0 → q ≠ p → coproc (withHeld p h u) q = coproc s q := by
  have hc : p = 1 ∨ p = 2 ∨ p = 3 := by revert p; decide
  have hq : ∀ q : BitVec 2, q = 0 ∨ q = 1 ∨ q = 2 ∨ q = 3 := by decide
  rcases hc with rfl | rfl | rfl <;> refine ⟨by simp [coproc, withHeld, *], fun q h0 h1 => ?_⟩ <;>
    rcases hq q with rfl | rfl | rfl | rfl <;>
    first | exact absurd rfl h0 | exact absurd rfl h1 | simp [coproc, withHeld, *]

theorem heldReg_setHeldReg (h : CoprocRegs) (r : BitVec 4) (v : Word) :
    heldReg (setHeldReg h r v) r = v ∧ (∀ q, q ≠ r → heldReg (setHeldReg h r v) q = heldReg h q)
      ∧ (setHeldReg h r v).status = h.status := by
  refine ⟨by simp [heldReg, setHeldReg], fun q hq => ?_, rfl⟩
  have : r.toNat ≠ q.toNat := fun e => hq (BitVec.eq_of_toNat_eq e.symm)
  simp [heldReg, setHeldReg, this]

theorem coprocVector_eq (p : BitVec 2) : coprocVector p = BitVec.ofNat 32 (0x20 + 4 * p.toNat) := by
  revert p; decide

end Sys2Proof.Machine
end

