-- ==== Sys2Proof/Laws/Decode.lean ====
section
/-! SUPPORT. A field of a halfword as arithmetic: with `toNat_append` for the encoder's side, each row's
decoding is linear arithmetic. -/

namespace Sys2Proof

theorem field_toNat (w : Half) (lo n : Nat) : (field w lo n).toNat = w.toNat / 2 ^ lo % 2 ^ n :=
  Machine.toNat_extract w lo n

theorem field_eq (w : Half) (lo n : Nat) (x : BitVec n) (h : w.toNat / 2 ^ lo % 2 ^ n = x.toNat) :
    field w lo n = x := by
  apply BitVec.eq_of_toNat_eq
  rw [field_toNat, h]

end Sys2Proof
end

