-- ==== Sys2Proof/Laws/Locate.lean ====
section
/-! SUPPORT. The checks of an access as arithmetic: alignment, the bank's nibble, a sub-bank's match, the
scratch-pad regions, and what the bus answers. -/

namespace Sys2Proof.Machine

open Sys2Proof.Safety

theorem isAligned_iff (size : AccessSize) (va : Word) :
    isAligned size va = true ↔ va.toNat % sizeBytes size = 0 := by
  cases size
  · simp [isAligned, sizeBytes]; omega
  · simp [isAligned, sizeBytes, ← BitVec.toNat_inj]
  · simp [isAligned, sizeBytes, ← BitVec.toNat_inj]

theorem bankNibble_toNat (s : State) (va : Word) :
    (bankNibble s va).toNat = s.scp.memoryBank.toNat / 16 ^ (va.toNat / 2 ^ 29) % 16 := by
  have h : (va.extractLsb' 29 3).toNat = va.toNat / 2 ^ 29 := by
    rw [toNat_extract]; have := va.isLt; omega
  unfold bankNibble
  rw [toNat_extract, h, pow_mul]
  norm_num

theorem subBankMatches_iff (va : Word) (b : SubBank) : subBankMatches va b = true ↔
    b.valid = true ∧ ∀ i < 20, b.size.getLsbD i = false → va.getLsbD (12 + i) = b.base.getLsbD i := by
  have bit : ∀ i < 20, (va.extractLsb' 12 20 ||| b.size.setWidth 20).getLsbD i
      = (va.getLsbD (12 + i) || b.size.getLsbD i) := by
    intro i hi; simp [hi]
  have bit' : ∀ i < 20, (b.base ||| b.size.setWidth 20).getLsbD i
      = (b.base.getLsbD i || b.size.getLsbD i) := by
    intro i hi; simp [hi, BitVec.getLsbD_or, BitVec.getLsbD_setWidth, -BitVec.getLsbD_eq_getElem]
  unfold subBankMatches
  rw [Bool.and_eq_true, beq_iff_eq]
  apply and_congr_right
  intro _
  constructor
  · intro h i hi hs
    have := congrArg (fun x => x.getLsbD i) h
    simp only [bit i hi, bit' i hi, hs, Bool.or_false] at this
    exact this
  · intro h
    apply BitVec.eq_of_getLsbD_eq
    intro i hi
    rw [bit i hi, bit' i hi]
    cases hs : b.size.getLsbD i
    · rw [h i hi hs]
    · simp

/-- An access that passes the alignment check. -/
theorem locate_aligned {kind : AccessKind} {user : Bool} {size : AccessSize} {va : Word} {s : State}
    (h : kind = .fetch ∨ va.toNat % sizeBytes size = 0) :
    locate kind user size va s = match spmHits s va with
      | hit :: more => locateSpm kind user va hit more s
      | [] =>
        if (bankNibble s va).getLsbD 3 && s.cfg.tlbConfig != .none then locateTlb kind user va s
        else locateMbmu kind user va s := by
  have hn : ¬(kind ≠ .fetch ∧ isAligned size va = false) := by
    rintro ⟨a, b⟩
    rcases h with h | h
    · exact a h
    · rw [(isAligned_iff _ _).2 h] at b; cases b
  unfold locate
  exact if_neg hn

/-- What the platform answers at a physical address. -/
theorem locateBus_cases (kind : AccessKind) (pa : Word) (cc : BitVec 2) (s : State) :
    (regionAt s.cfg.platform pa = some .ram → locateBus kind pa cc s = .ok (.storage (busLoc pa) cc) s)
      ∧ (regionAt s.cfg.platform pa = some .device → locateBus kind pa cc s = .ok (.device pa) s)
      ∧ (regionAt s.cfg.platform pa = some .openBus → locateBus kind pa cc s = .ok .openBus s)
      ∧ (regionAt s.cfg.platform pa = none → locateBus kind pa cc s = .raise 0x10
        { s with scp := { s.scp with
            ibusError := if kind = .fetch then pa else s.scp.ibusError
            dbusError := if kind = .fetch then s.scp.dbusError else pa } }) := by
  refine ⟨?_, ?_, ?_, ?_⟩ <;> intro h <;> unfold locateBus <;> rw [h]
  · rfl
  · cases kind <;> rfl

theorem violationCode_eq (kind : AccessKind) :
    violationCode kind = if kind = .fetch then 0b0000 else 0b0100 := by
  cases kind <;> rfl

/-- The regions of one scratch-pad an address lies in. -/
theorem mem_spmHitsIn (space : Space) (present enable config sizeCode : BitVec 4) (banks : Vector SpmBank 4)
    (va : Word) (h : SpmHit) : h ∈ spmHitsIn space present enable config sizeCode banks va ↔
      h = { space, bank := h.bank, regs := banks[h.bank.toNat]'h.bank.isLt, config, sizeCode }
        ∧ enable = 1 ∧ h.regs.enable = 1 ∧ present.getLsbD h.bank.toNat = true ∧ (config ≠ 0 ∨ h.bank = 0)
        ∧ h.regs.start.toNat ≤ va.toNat ∧ va.toNat ≤ h.regs.last.toNat := by
  unfold spmHitsIn
  rw [List.mem_filterMap]
  constructor
  · rintro ⟨n, _, hm⟩
    dsimp only at hm
    split at hm
    · rename_i hc; cases hm; exact ⟨rfl, hc⟩
    · cases hm
  · rintro ⟨he, hc⟩
    refine ⟨h.bank, by generalize h.bank = n; revert n; decide, ?_⟩
    dsimp only
    rw [if_pos]
    · rw [he]
    · rw [he] at hc; exact hc

end Sys2Proof.Machine
end

