-- ==== Sys2Proof/Laws/Ops.lean ====
section
/-! SUPPORT. What the shared operations can do, said once: an access to plain RAM, taking an exception, and
the words of a stack. -/

namespace Sys2Proof.Machine

open Sys2Proof.Safety

/-! ### Plain RAM -/

theorem PlainRam.congr {user : Bool} {va : Word} {s t : State} (hs : t.scp = s.scp) (hc : t.cfg = s.cfg)
    (h : PlainRam user va s) : PlainRam user va t := by
  obtain ⟨h1, h2, h3, h4, h5⟩ := h
  exact ⟨by simpa [spmHits, hs, hc] using h1, by simpa [bankNibble, hs, hc] using h2,
    by rw [hs]; exact h3, by simpa [bankNibble, hs] using h4, by rw [hc]; exact h5⟩

/-- An aligned access, or a fetch, in plain RAM finds the bytes at its address and records nothing. -/
theorem locate_plainRam {k : AccessKind} {user : Bool} {z : AccessSize} {va : Word} {s : State}
    (h : PlainRam user va s) (ha : k = .fetch ∨ isAligned z va = true) :
    ∃ cc, locate k user z va s = .ok (.storage (busLoc va) cc) s := by
  obtain ⟨h1, h2, h3, h4, h5⟩ := h
  have hm : ¬(k ≠ .fetch ∧ isAligned z va = false) := by
    rintro ⟨x, y⟩
    rcases ha with ha | ha
    · exact x ha
    · rw [ha] at y; cases y
  have ht : ((bankNibble s va).getLsbD 3 && s.cfg.tlbConfig != .none) = false := by
    rcases h2 with h2 | h2
    · rw [h2]; rfl
    · rw [h2]; simp
  have hf : s.scp.subBanks.toList.filter (subBankMatches va) = [] := by
    rw [List.filter_eq_nil_iff]; intro b hb; simp [h3 b hb]
  have hr : (user && !(bankNibble s va).getLsbD 2) = false := by
    cases user
    · rfl
    · simp [h4 rfl]
  refine ⟨(bankNibble s va).extractLsb' 0 2, ?_⟩
  unfold locate
  rw [if_neg hm, h1, ht]
  simp only [Bool.false_eq_true, if_false]
  unfold locateMbmu
  rw [hf]
  simp only [hr, Bool.false_eq_true, if_false]
  unfold locateBus
  rw [h5]
  rfl

theorem memWriteAs_plainRam {user : Bool} {z : AccessSize} {va v : Word} {s : State} (h : PlainRam user va s)
    (ha : isAligned z va = true) : ∃ cc, memWriteAs user z va v s = .ok () (storeAt z (busLoc va) cc v s) := by
  obtain ⟨cc, hl⟩ := locate_plainRam (k := .write) h (.inr ha)
  exact ⟨cc, by simp [memWriteAs, hl, andThen, writeTarget]⟩

theorem memReadAs_plainRam {user : Bool} {va : Word} {s : State} (h : PlainRam user va s)
    (ha : isAligned .word va = true) : memReadAs user .word va s = .ok (wordAt s (busLoc va)) s := by
  obtain ⟨cc, hl⟩ := locate_plainRam (k := .read) h (.inr ha)
  simp [memReadAs, hl, andThen, readTarget, wordAt]

/-! ### Words in memory -/

/-- A word is read from its four bytes. -/
theorem wordAt_congr {s t : State} {l : Loc} (he : t.sr.endian = s.sr.endian)
    (h : ∀ k < 4, t.byteAt { l with addr := l.addr + k } = s.byteAt { l with addr := l.addr + k }) :
    wordAt t l = wordAt s l := by
  unfold wordAt readSized
  rw [he]
  congr 1
  refine readBytes_congr _ _ fun x h1 h2 => ?_
  have := h (x - l.addr) (by simp only [sizeBytes] at h2; omega)
  simpa [State.byteAt, Nat.add_sub_cancel' h1] using this

theorem wordAt_storeAt_same (l : Loc) (cc : BitVec 2) (v : Word) (s : State) :
    wordAt (storeAt .word l cc v s) l = v := by
  obtain ⟨sp, a⟩ := l
  unfold wordAt
  cases sp <;> exact readSized_writeSized_same _ _ _ .word v

theorem wordAt_storeAt_other {l m : Loc} (cc : BitVec 2) (v : Word) (s : State)
    (h : l.addr + 4 ≤ m.addr ∨ m.addr + 4 ≤ l.addr) : wordAt (storeAt .word l cc v s) m = wordAt s m := by
  refine wordAt_congr (by obtain ⟨sp, a⟩ := l; cases sp <;> rfl) fun k hk => ?_
  refine keepsMemoryOutside_storeAt .word l cc v s _ (.inr ?_)
  simp only [sizeBytes]
  omega

theorem aligned_iff (a : Word) : isAligned .word a = true ↔ a.toNat % 4 = 0 := by
  simp [isAligned, ← BitVec.toNat_inj]

theorem extract_two_iff (a : Word) : a.extractLsb' 0 2 = 0 ↔ a.toNat % 4 = 0 := by
  simp [← BitVec.toNat_inj]

/-! ### Taking an exception -/

/-- The three accesses of an entry stay within `Accessed`. -/
theorem accKeeps_entryAccesses (a b v : Word) (s : State) : AccKeeps s (entryAccesses a b v s) :=
  accKeeps_andThen (accKeeps_memWriteAs _ _ _ _ _) fun _ _ =>
    accKeeps_andThen (accKeeps_memWriteAs _ _ _ _ _) fun _ u => accKeeps_memReadAs _ _ _ u

/-- All an entry can answer with a next state: accesses, then the handler is entered or the machine locks
up. -/
theorem exceptionEntry_next {off savedPc : Word} {kind : EntryKind} {s t : State}
    (h : exceptionEntry off savedPc kind s = .next t) :
    ∃ u, Accessed s u ∧ ((∃ handler, t = enterHandler kind handler u) ∨ t = lockUp u) := by
  unfold exceptionEntry at h
  have ha := accKeeps_entryAccesses (savedSr s) savedPc (vectorAddr off s) s
  revert h ha
  cases entryAccesses (savedSr s) savedPc (vectorAddr off s) s with
  | ok handler u => intro h ha; cases h; exact ⟨u, ha, .inl ⟨handler, rfl⟩⟩
  | fault r => intro h _; cases h
  | raise o u =>
    intro h ha
    simp only [doubleFault] at h
    have hb := accKeeps_entryAccesses (savedSr s) savedPc 0x0C u
    revert h hb
    cases entryAccesses (savedSr s) savedPc 0x0C u with
    | ok handler v => intro h hb; cases h; exact ⟨v, ha.trans hb, .inl ⟨handler, rfl⟩⟩
    | raise o v => intro h hb; cases h; exact ⟨v, ha.trans hb, .inr rfl⟩
    | fault r => intro h _; cases h

/-- The accesses of an entry in plain RAM: the two words of the frame stored, and the vector read from the
memory they leave. -/
theorem entryAccesses_plainRam {a b v : Word} {s : State} (hs : PlainStack false (s.spr.ssp - 8) 2 s)
    (hv : PlainRam false v s) (hva : v.extractLsb' 0 2 = 0) :
    ∃ c d, entryAccesses a b v s =
      .ok (wordAt (storeAt .word (busLoc (s.spr.ssp - 8)) d b
          (storeAt .word (busLoc (s.spr.ssp - 4)) c a s)) (busLoc v))
        (storeAt .word (busLoc (s.spr.ssp - 8)) d b (storeAt .word (busLoc (s.spr.ssp - 4)) c a s)) := by
  obtain ⟨h0, hk⟩ := hs
  have k0 := hk 0 (by norm_num)
  have k1 := hk 1 (by norm_num)
  have e0 : s.spr.ssp - 8 + 4 * BitVec.ofNat 32 0 = s.spr.ssp - 8 := by bv_omega
  have e1 : s.spr.ssp - 8 + 4 * BitVec.ofNat 32 1 = s.spr.ssp - 4 := by bv_omega
  rw [e0] at k0
  rw [e1] at k1
  rw [extract_two_iff] at h0 hva
  have a0 : isAligned .word (s.spr.ssp - 8) = true := (aligned_iff _).2 h0
  have a1 : isAligned .word (s.spr.ssp - 4) = true := (aligned_iff _).2 (by bv_omega)
  obtain ⟨c, hc⟩ := memWriteAs_plainRam (v := a) k1 a1
  obtain ⟨d, hd⟩ := memWriteAs_plainRam (v := b)
    (PlainRam.congr (t := storeAt .word (busLoc (s.spr.ssp - 4)) c a s) (by simp) (by simp) k0) a0
  refine ⟨c, d, ?_⟩
  have hspr : (storeAt .word (busLoc (s.spr.ssp - 4)) c a s).spr = s.spr := rfl
  have hr := memReadAs_plainRam (PlainRam.congr (t := storeAt .word (busLoc (s.spr.ssp - 8)) d b
    (storeAt .word (busLoc (s.spr.ssp - 4)) c a s)) (by simp) (by simp) hv) ((aligned_iff v).2 hva)
  unfold entryAccesses
  rw [hc]
  simp only [andThen, hspr, hd, hr]

/-- What an entry in plain RAM answers, by the state `u` its three accesses leave. -/
theorem exceptionEntry_plainRam {off savedPc : Word} {kind : EntryKind} {s : State}
    (hs : PlainStack false (s.spr.ssp - 8) 2 s) (hv : PlainRam false (vectorAddr off s) s)
    (hva : (vectorAddr off s).extractLsb' 0 2 = 0) :
    ∃ u : State, exceptionEntry off savedPc kind s
        = .next (enterHandler kind (wordAt u (busLoc (vectorAddr off s))) u)
      ∧ Accessed s u ∧ u.scp = s.scp ∧ u.env = s.env ∧ u.events = s.events
      ∧ wordAt u (busLoc (s.spr.ssp - 4)) = savedSr s ∧ wordAt u (busLoc (s.spr.ssp - 8)) = savedPc
      ∧ ∀ m, Outside (busLoc (s.spr.ssp - 4)) 4 m → Outside (busLoc (s.spr.ssp - 8)) 4 m →
        u.byteAt m = s.byteAt m := by
  have h0 := hs.1
  rw [extract_two_iff] at h0
  obtain ⟨c, d, h⟩ := entryAccesses_plainRam (a := savedSr s) (b := savedPc) hs hv hva
  have ha := accKeeps_entryAccesses (savedSr s) savedPc (vectorAddr off s) s
  rw [h] at ha
  refine ⟨_, ?_, ha, rfl, rfl, rfl, ?_, ?_, ?_⟩
  · unfold exceptionEntry; rw [h]
  · rw [wordAt_storeAt_other, wordAt_storeAt_same]
    simp only [busLoc]; bv_omega
  · rw [wordAt_storeAt_same]
  · intro m h1 h2
    rw [keepsMemoryOutside_storeAt .word _ _ _ _ m h2, keepsMemoryOutside_storeAt .word _ _ _ _ m h1]

/-- What latching the backup registers changes. -/
theorem latchBackup_frame (w : Half) (s : State) : ∃ d er, latchBackup w s = { s with
      draws := d, scp := { s.scp with backupIr := w, backupEr := er, backupPc := nextAddr s - 2 } }
    ∧ (s.sr.e = true → er = s.spr.er) := by
  unfold latchBackup
  split
  · exact ⟨_, _, rfl, fun _ => rfl⟩
  · rename_i h
    exact ⟨_, _, rfl, fun x => absurd x h⟩

end Sys2Proof.Machine
end

