-- ==== Sys2Proof/Laws/Reset.lean ====
section
/-! SUPPORT. The Reset event: the canonical form of the storage it draws, what it leaves, and when it stops. -/

namespace Sys2Proof.Machine

/-! ### Drawn storage -/

/-- One more free byte in front of what is listed above it. -/
theorem wfFrom_freeByte {b : Byte} {k : Nat} {above : Memory} (h : wfFrom (k + 1) above = true) :
    wfFrom k (if b = unlistedByte then above else (k, b) :: above) = true := by
  split
  · exact wfFrom_mono (by omega) h
  · rename_i hb
    simp [wfFrom, hb, h]

theorem wfFrom_freeBytes (byte : Nat → Byte) (a n lo : Nat) (above : Memory) (hlo : lo ≤ a)
    (h : wfFrom (a + n) above = true) : wfFrom lo (freeBytes byte a n above) = true := by
  induction n generalizing above with
  | zero => exact wfFrom_mono hlo h
  | succ n ih => exact ih _ (wfFrom_freeByte h)

theorem readByte_below {m : Memory} {lo x : Nat} (h : wfFrom lo m = true) (hx : x < lo) :
    readByte m x = unlistedByte := by
  induction m generalizing lo with
  | nil => rfl
  | cons c rest ih =>
    obtain ⟨k, b⟩ := c
    simp only [wfFrom, Bool.and_eq_true, decide_eq_true_eq] at h
    rw [readByte, if_neg (by omega)]
    exact ih h.2 (by omega)

/-- What a byte of drawn storage reads as: in the range its draw, elsewhere what was listed above. -/
theorem readByte_freeBytes (byte : Nat → Byte) (a n x : Nat) (above : Memory)
    (h : wfFrom (a + n) above = true) :
    readByte (freeBytes byte a n above) x = if a ≤ x ∧ x < a + n then byte x else readByte above x := by
  induction n generalizing above with
  | zero =>
    have hx : ¬(a ≤ x ∧ x < a + 0) := by omega
    rw [if_neg hx]
    rfl
  | succ n ih =>
    have top : readByte (if byte (a + n) = unlistedByte then above else (a + n, byte (a + n)) :: above) x
        = if x = a + n then byte x else readByte above x := by
      by_cases hx : x = a + n
      · subst hx
        split
        · rename_i hb; simp [readByte_below h (show a + n < a + (n + 1) by omega), hb]
        · simp [readByte]
      · split <;> simp [readByte, hx]
    refine (ih _ (wfFrom_freeByte h)).trans ?_
    rw [top]
    by_cases h1 : a ≤ x ∧ x < a + n
    · rw [if_pos h1, if_pos (show a ≤ x ∧ x < a + (n + 1) by omega)]
    · rw [if_neg h1]
      by_cases hx : x = a + n
      · rw [if_pos hx, if_pos (show a ≤ x ∧ x < a + (n + 1) by omega)]
      · rw [if_neg hx, if_neg (show ¬(a ≤ x ∧ x < a + (n + 1)) by omega)]

/-- The scratch-pad storage a Reset leaves has the canonical form. -/
theorem wf_resetSpmMem (byte : Nat → Byte) (sizeCode : BitVec 4) :
    Memory.wf (resetSpmMem byte sizeCode) = true := by
  have hb : spmBankBytes sizeCode ≤ 2 ^ 26 :=
    Nat.pow_le_pow_right (by omega) (by have := sizeCode.isLt; omega)
  refine wfFrom_freeBytes _ _ _ _ _ (Nat.le_refl _) ?_
  refine wfFrom_freeBytes _ _ _ _ _ (by omega) ?_
  refine wfFrom_freeBytes _ _ _ _ _ (by omega) ?_
  exact wfFrom_freeBytes _ _ _ _ _ (by omega) rfl

/-! ### The reset values -/

@[simp] theorem resetState_gpr (s : State) : (resetState s).gpr = s.cfg.resetGpr := rfl
@[simp] theorem resetState_pc (s : State) : (resetState s).pc = s.pc := rfl
@[simp] theorem resetState_leris (s : State) : (resetState s).leris = 0 := rfl
@[simp] theorem resetState_sr (s : State) : (resetState s).sr = resetSr s := rfl
@[simp] theorem resetState_spr (s : State) : (resetState s).spr = resetSprs s.cfg.resetSpr := rfl
@[simp] theorem resetState_scp (s : State) : (resetState s).scp = resetScp s.cfg s.draws := rfl
@[simp] theorem resetState_cp1 (s : State) : (resetState s).cp1 = s.cp1 := rfl
@[simp] theorem resetState_cp2 (s : State) : (resetState s).cp2 = s.cp2 := rfl
@[simp] theorem resetState_cp3 (s : State) : (resetState s).cp3 = s.cp3 := rfl
@[simp] theorem resetState_mem (s : State) : (resetState s).mem = s.mem := rfl
@[simp] theorem resetState_halted (s : State) : (resetState s).halted = false := rfl
@[simp] theorem resetState_lockup (s : State) : (resetState s).lockup = false := rfl
@[simp] theorem resetState_stale (s : State) : (resetState s).stale = s.stale := rfl
@[simp] theorem resetState_env (s : State) : (resetState s).env = s.env := rfl
@[simp] theorem resetState_events (s : State) : (resetState s).events = s.events := rfl
@[simp] theorem resetState_cfg (s : State) : (resetState s).cfg = s.cfg := rfl
theorem wf_resetState_ispmMem (s : State) : Memory.wf (resetState s).ispmMem = true := wf_resetSpmMem _ _
theorem wf_resetState_dspmMem (s : State) : Memory.wf (resetState s).dspmMem = true := wf_resetSpmMem _ _

/-- All a Reset can answer with a next state: the reset values, and pc at some vector with bit 0 clear. -/
theorem resetEvent_next {s t : State} (h : resetEvent s = .next t) :
    ∃ vector : Word, t = { resetState s with pc := vector &&& 0xFFFFFFFE } := by
  unfold resetEvent at h
  dsimp only at h
  split at h
  · cases h; exact ⟨_, rfl⟩
  all_goals cases h

end Sys2Proof.Machine
end

