-- ==== Sys2Proof/Laws/Stack.lean ====
section
/-! SUPPORT. PUSH and POP: which bit of a list is which word, what the words of a stack in plain RAM become
or are, and what assigning popped words leaves. -/

namespace Sys2Proof.Machine

open Sys2Proof.Safety

/-! ### Lists -/

theorem listBits_facts : ∀ list : BitVec 8, (listBits list).length ≤ 8 ∧ (listBits list).Nodup ∧
    (listBits list).zip (List.range (listBits list).length) = (listBits list).map (fun b => (b, rankIn list b)) ∧
    ∀ b ∈ listBits list, rankIn list b < (listBits list).length
      ∧ (listBits list).reverse[(listBits list).length - 1 - rankIn list b]? = some b
      ∧ (listBits list)[rankIn list b]? = some b := by
  decide +kernel

theorem mem_listBits : ∀ (list : BitVec 8) (b : BitVec 3), b ∈ listBits list ↔ list.getLsbD b.toNat = true := by
  decide +kernel

theorem lookup_listBits (g : BitVec 3 → Word) (b : BitVec 3) (list : BitVec 8) :
    ((listBits list).map fun b => (b, g b)).lookup b = if list.getLsbD b.toNat then some (g b) else none := by
  have h : ∀ l : List (BitVec 3), (l.map fun b => (b, g b)).lookup b = if b ∈ l then some (g b) else none := by
    intro l
    induction l with
    | nil => simp
    | cons a l ih =>
      simp only [List.map_cons, List.lookup_cons, ih]
      by_cases e : b = a
      · simp [e]
      · simp [e, beq_false_of_ne e]
  rw [h]
  simp [mem_listBits]

/-! ### The words -/

theorem accKeeps_pushWords (top : Word) (vs : List Word) (s : State) : AccKeeps s (pushWords top vs s) := by
  induction vs generalizing top s with
  | nil => exact Accessed.refl s
  | cons v vs ih => exact accKeeps_andThen (accKeeps_memWrite _ _ _ _) fun _ t => ih _ _

theorem accKeeps_popWords (bottom : Word) (n : Nat) (s : State) : AccKeeps s (popWords bottom n s) := by
  induction n generalizing bottom s with
  | zero => exact Accessed.refl s
  | succ n ih =>
    exact accKeeps_andThen (accKeeps_memRead _ _ _) fun _ t =>
      accKeeps_andThen (ih _ _) fun _ u => Accessed.refl u

theorem stack_words_apart (a : Word) (i : Nat) (_ha : a.toNat % 4 = 0) (h : i < 7) :
    (busLoc a).addr + 4 ≤ (busLoc (a - 4 * BitVec.ofNat 32 (i + 1))).addr
      ∨ (busLoc (a - 4 * BitVec.ofNat 32 (i + 1))).addr + 4 ≤ (busLoc a).addr := by
  simp only [busLoc]
  interval_cases i <;> bv_omega

/-- Words pushed to plain RAM: each at its place, no other byte changed. -/
theorem pushWords_plain (top : Word) (vs : List Word) (s : State) (hn : vs.length ≤ 8) (ha : top.toNat % 4 = 0)
    (hp : ∀ i < vs.length, PlainRam (isUser s) (top - 4 * BitVec.ofNat 32 (i + 1)) s) :
    ∃ u, pushWords top vs s = .ok () u ∧ Accessed s u ∧ u.scp = s.scp ∧ u.env = s.env ∧ u.events = s.events
      ∧ (∀ i (h : i < vs.length), wordAt u (busLoc (top - 4 * BitVec.ofNat 32 (i + 1))) = vs[i])
      ∧ ∀ m, (∀ i < vs.length, Outside (busLoc (top - 4 * BitVec.ofNat 32 (i + 1))) 4 m) →
        u.byteAt m = s.byteAt m := by
  induction vs generalizing top s with
  | nil =>
    exact ⟨s, rfl, Accessed.refl s, rfl, rfl, rfl, fun i h => absurd h (Nat.not_lt_zero _), fun _ _ => rfl⟩
  | cons v vs ih =>
    simp only [List.length_cons] at hn hp
    have e0 : top - 4 * BitVec.ofNat 32 (0 + 1) = top - 4 := by bv_omega
    have h0 := hp 0 (by omega)
    rw [e0] at h0
    have a4 : (top - 4).toNat % 4 = 0 := by bv_omega
    obtain ⟨c, hc⟩ := memWriteAs_plainRam (v := v) h0 ((aligned_iff _).2 a4)
    have es : ∀ i : Nat, top - 4 - 4 * BitVec.ofNat 32 (i + 1) = top - 4 * BitVec.ofNat 32 (i + 1 + 1) := by
      intro i; rw [BitVec.ofNat_add (i + 1) 1]; bv_omega
    set t := storeAt .word (busLoc (top - 4)) c v s with ht
    have hacc : Accessed s t := accessed_storeAt _ _ _ _ _
    obtain ⟨u, h1, h2, h3, h4, h5, h6, h7⟩ := ih (top - 4) t (by omega) a4 (by
      intro i hi
      rw [es]
      exact PlainRam.congr (s := s) (by simp [ht]) (by simp [ht]) (hp (i + 1) (by omega)))
    refine ⟨u, ?_, hacc.trans h2, h3.trans (by simp [ht]), h4.trans (by simp [ht]), h5.trans (by simp [ht]),
      ?_, ?_⟩
    · simp only [pushWords, memWrite, hc, andThen]
      exact h1
    · intro i hi
      cases i with
      | zero =>
        rw [e0, wordAt_congr (s := t) (by rw [h2.sr]) (fun k hk => h7 _ (fun i hi => ?_))]
        · rw [ht, wordAt_storeAt_same]; rfl
        · have := stack_words_apart (top - 4) i a4 (by omega)
          right
          simp only [busLoc] at *
          omega
      | succ i => rw [← es]; exact h6 i (by simpa using hi)
    · intro m hm
      rw [h7 m (fun i hi => by rw [es]; exact hm (i + 1) (by simp; omega)), ht]
      exact keepsMemoryOutside_storeAt .word _ _ _ _ m (by rw [← e0]; exact hm 0 (by simp))

/-- Words popped from plain RAM: the words there, and the state as it was. -/
theorem popWords_plain (bottom : Word) (n : Nat) (s : State) (hn : n ≤ 8) (ha : bottom.toNat % 4 = 0)
    (hp : ∀ i < n, PlainRam (isUser s) (bottom + 4 * BitVec.ofNat 32 i) s) :
    popWords bottom n s
      = .ok ((List.range n).map fun i => wordAt s (busLoc (bottom + 4 * BitVec.ofNat 32 i))) s := by
  induction n generalizing bottom with
  | zero => rfl
  | succ n ih =>
    have e0 : bottom + 4 * BitVec.ofNat 32 0 = bottom := by bv_omega
    have es : ∀ i : Nat, bottom + 4 + 4 * BitVec.ofNat 32 i = bottom + 4 * BitVec.ofNat 32 (i + 1) := by
      intro i; rw [BitVec.ofNat_add i 1]; bv_omega
    have h0 := hp 0 (by omega)
    rw [e0] at h0
    have hr := memReadAs_plainRam h0 ((aligned_iff _).2 ha)
    have h1 := ih (bottom + 4) (by omega) (by bv_omega)
      (by intro i hi; rw [es]; exact hp (i + 1) (by omega))
    simp only [popWords, memRead, hr, andThen, h1]
    rw [List.range_succ_eq_map]
    simp only [List.map_cons, List.map_map, e0]
    congr 2
    apply List.map_congr_left
    intro i _
    simp only [Function.comp, es]

/-! ### Assigning popped words -/

/-- General registers assigned from a POP: each listed one its word, the others and all else as they were. -/
theorem assignRegs_next (reg : BitVec 3 → Reg) (hi : ∀ a b, reg a = reg b → a = b) (l : List (BitVec 3))
    (hl : l.Nodup) (g : BitVec 3 → Word) (s : State) :
    (∀ b ∈ l, readReg (assignRegs reg (l.map fun b => (b, g b)) s) (reg b) = g b)
      ∧ (∀ r, r ∉ l.map reg → readReg (assignRegs reg (l.map fun b => (b, g b)) s) r = readReg s r)
      ∧ ∃ gpr, assignRegs reg (l.map fun b => (b, g b)) s = { s with gpr := gpr } := by
  induction l generalizing s with
  | nil => exact ⟨fun b h => absurd h (by simp), fun _ _ => rfl, _, rfl⟩
  | cons a l ih =>
    rw [List.nodup_cons] at hl
    obtain ⟨h1, h2, gp, h3⟩ := ih hl.2 (writeReg s (reg a) (g a))
    refine ⟨?_, ?_, gp, h3⟩
    · intro b hb
      rcases List.mem_cons.1 hb with rfl | hb
      · show readReg (assignRegs reg (l.map fun b => (b, g b)) (writeReg s (reg b) (g b))) (reg b) = _
        rw [h2]
        · simp
        · intro h
          rw [List.mem_map] at h
          obtain ⟨c, hc, hc2⟩ := h
          exact hl.1 (hi _ _ hc2 ▸ hc)
      · exact h1 b hb
    · intro r hr
      simp only [List.map_cons, List.mem_cons, not_or] at hr
      show readReg (assignRegs reg (l.map fun b => (b, g b)) (writeReg s (reg a) (g a))) r = _
      rw [h2 r hr.2, readReg_writeReg_other _ hr.1]

/-- What a POP assigns of the special list, but for PC and SR. -/
theorem foldl_assignSpecial (g : BitVec 3 → Word) (l : List (BitVec 3)) (s : State) :
    (l.map fun b => (b, g b)).foldl assignSpecial s = { s with spr := { s.spr with
      cr0 := if 0 ∈ l then g 0 else s.spr.cr0
      cr1 := if 1 ∈ l then g 1 else s.spr.cr1
      ml := if 2 ∈ l then g 2 else s.spr.ml
      mh := if 3 ∈ l then g 3 else s.spr.mh
      lr := if 5 ∈ l then g 5 &&& 0xFFFFFFFE else s.spr.lr } } := by
  induction l generalizing s with
  | nil => simp
  | cons a l ih =>
    simp only [List.map_cons, List.foldl_cons, ih]
    obtain ⟨⟨a, ha⟩⟩ := a
    interval_cases a <;> simp [assignSpecial, writeLr]

end Sys2Proof.Machine
end

