-- ==== Sys2Proof/Laws/StatusWord.lean ====
section
/-! SUPPORT. The status register as a word: what each bit of `SR.toWord` is, and that `SR.ofWord` undoes
`SR.toWord` when the layout gives every field its own bit. -/

namespace Sys2Proof.Machine

theorem getLsbD_bitAt (b : Bool) (p i : Nat) (hp : p < 32) : (bitAt b p).getLsbD i = (b && decide (i = p)) := by
  unfold bitAt
  cases b
  · simp
  · simp only [if_true, Bool.true_and, BitVec.getLsbD_shiftLeft]
    by_cases h : i = p
    · subst h; simp [hp]
    · by_cases h2 : i < p
      · simp [h2, h]
      · simp [h2, h]; intro _; omega

/-- A 4-bit field holds nothing outside its four bits. -/
theorem getLsbD_fieldAt (v : BitVec 4) (p i : Nat) (h : i ∉ [0, 1, 2, 3].map (p + ·)) :
    (fieldAt v p).getLsbD i = false := by
  have hn : ¬(p ≤ i ∧ i < p + 4) := by
    rintro ⟨h1, h2⟩
    refine h (List.mem_map.2 ⟨i - p, ?_, by omega⟩)
    have : i - p = 0 ∨ i - p = 1 ∨ i - p = 2 ∨ i - p = 3 := by omega
    simpa using this
  unfold fieldAt
  rw [BitVec.getLsbD_shiftLeft]
  by_cases h1 : i < p
  · simp [h1]
  · rw [BitVec.getLsbD_setWidth, BitVec.getLsbD_of_ge v _ (by omega), Bool.and_false, Bool.and_false]

/-- The fields of SR that have storage, with their bit positions. -/
def srFields (layout : SrLayout) (sr : SR) : List (Bool × Nat) :=
  [(sr.modeHi, 15), (sr.modeLo, 9), (sr.nmi, layout.nmi.toNat), (sr.int, layout.int.toNat),
    (sr.vi, layout.vi.toNat), (sr.e, layout.e.toNat), (sr.endian, layout.endian.toNat),
    (sr.l, layout.l.toNat), (sr.c, layout.c.toNat), (sr.z, layout.z.toNat), (sr.s, layout.s.toNat),
    (sr.v, layout.v.toNat)]

/-- A bit outside the identification fields is the flag placed there, if any. -/
theorem toWord_getLsbD (layout : SrLayout) (sr : SR) (i : Nat) (hi : i ∉ SrLayout.idBits layout) :
    (SR.toWord layout sr).getLsbD i = (srFields layout sr).any fun f => f.1 && decide (i = f.2) := by
  have h4 : ∀ x : BitVec 4, x.toNat < 32 := fun x => by have := x.isLt; omega
  have h5 : ∀ x : BitVec 5, x.toNat < 32 := fun x => x.isLt
  simp only [SrLayout.idBits, List.flatMap_cons, List.flatMap_nil, List.append_nil, List.mem_append,
    not_or] at hi
  simp only [SR.toWord, BitVec.getLsbD_or, getLsbD_fieldAt _ _ _ hi.1, getLsbD_fieldAt _ _ _ hi.2.1,
    getLsbD_fieldAt _ _ _ hi.2.2, getLsbD_bitAt _ _ _ (h4 _), getLsbD_bitAt _ _ _ (h5 _),
    getLsbD_bitAt _ 15 _ (by omega), getLsbD_bitAt _ 9 _ (by omega)]
  simp [srFields, Bool.or_assoc]

theorem any_of_nodup {l : List (Bool × Nat)} (hn : (l.map (·.2)).Nodup) {b : Bool} {p : Nat}
    (hm : (b, p) ∈ l) : (l.any fun f => f.1 && decide (p = f.2)) = b := by
  induction l with
  | nil => cases hm
  | cons a l ih =>
    rw [List.map_cons, List.nodup_cons] at hn
    rw [List.any_cons]
    rcases List.mem_cons.1 hm with rfl | hm
    · have : (l.any fun f => f.1 && decide (p = f.2)) = false := by
        rw [List.any_eq_false]
        intro f hf h
        have : p = f.2 := by simp at h; exact h.2
        exact hn.1 (List.mem_map.2 ⟨f, hf, this.symm⟩)
      rw [this]; simp
    · rw [ih hn.2 hm]
      have : decide (p = a.2) = false := by
        rw [decide_eq_false_iff_not]
        intro h
        exact hn.1 (List.mem_map.2 ⟨(b, p), hm, h⟩)
      rw [this]; simp

/-- What a word built from SR holds at a field's position. -/
theorem toWord_field {layout : SrLayout} (hw : SrLayout.wf layout = true) {sr : SR} {b : Bool} {p : Nat}
    (hm : (b, p) ∈ srFields layout sr) : (SR.toWord layout sr).getLsbD p = b := by
  have hn := (of_decide_eq_true hw).1
  rw [List.nodup_append] at hn
  have hf : SrLayout.flagBits layout = (srFields layout sr).map (·.2) := rfl
  rw [toWord_getLsbD _ _ _ fun h => hn.2.2 p (hf ▸ List.mem_map.2 ⟨(b, p), hm, rfl⟩) p h rfl]
  exact any_of_nodup (hf ▸ hn.1) hm

/-- POP of a saved SR restores it: what differs from the word read are the fields no POP writes. -/
theorem ofWord_toWord {layout : SrLayout} (hw : SrLayout.wf layout = true) (sr old : SR) (he : sr.e = false)
    (ho : old.endian = sr.endian) : SR.ofWord layout old (SR.toWord layout sr) = sr := by
  have f := fun b p h => toWord_field hw (sr := sr) (b := b) (p := p) h
  simp only [srFields] at f
  have h15 := f sr.modeHi 15 (by simp)
  have h9 := f sr.modeLo 9 (by simp)
  have h1 := f sr.nmi layout.nmi.toNat (by simp)
  have h2 := f sr.int layout.int.toNat (by simp)
  have h3 := f sr.vi layout.vi.toNat (by simp)
  have h4 := f sr.l layout.l.toNat (by simp)
  have h5 := f sr.c layout.c.toNat (by simp)
  have h6 := f sr.z layout.z.toNat (by simp)
  have h7 := f sr.s layout.s.toNat (by simp)
  have h8 := f sr.v layout.v.toNat (by simp)
  unfold SR.ofWord
  rw [h15, h9, h1, h2, h3, h4, h5, h6, h7, h8, ho, ← he]

end Sys2Proof.Machine
end

