-- ==== Sys2Proof/Tests/Slice0.lean ====
section
/-! SUPPORT. Small tests: every row's decoding of a word written out from its encoding, what the checks of
WellFormed refuse, one or two steps of each instruction with the result of the spec's test vectors, and for
each statement with hypotheses a state and operands that meet them. -/

namespace Sys2Proof.Tests

open Sys2Proof.Machine Sys2Proof.Safety

/-! ### States to test on -/

/-- The start state of 95_test_vectors.md. -/
def base : State :=
  { State.reset with
    pc := 0x100
    spr := { State.reset.spr with ssp := 0x2000 }
    cfg := { defaultParams with tlbConfig := .none } }

/-- Registers given values. -/
def regs (l : List (Reg × Word)) (s : State) : State := l.foldl (fun s p => writeReg s p.1 p.2) s

/-- A word in memory. -/
def word (a : Nat) (v : Word) (s : State) : State := { s with mem := writeSized s.sr.endian s.mem a .word v }

/-- SSP given a value. -/
def ssp (v : Word) (s : State) : State := { s with spr := { s.spr with ssp := v } }

/-- User mode with USP = 0x3000, user access to the first bank. -/
def user (s : State) : State :=
  { s with
    sr := { s.sr with modeHi := true }
    spr := { s.spr with usp := 0x3000 }
    scp := { s.scp with memoryBank := 4 } }

/-- SR.Endian = 1. -/
def bigEndian (s : State) : State := { s with sr := { s.sr with endian := true } }

/-- C, Z, S and V given values. -/
def withFlags (f : BitVec 4) (s : State) : State :=
  { s with sr := { s.sr with c := f.getLsbD 3, z := f.getLsbD 2, s := f.getLsbD 1, v := f.getLsbD 0 } }

/-- After `n` LERIs that have left `er`. -/
def prefixed (n : Nat) (er : Word) (s : State) : State :=
  { s with leris := n, sr := { s.sr with e := true }, spr := { s.spr with er := er } }

/-- A state in which Reset is requested. -/
def resetRequested (s : State) : State :=
  { s with env := { s.env with boundaries :=
    [{ resetReq := true, nmiPending := false, intPending := false, intcNumber := 0 }] } }

/-- A coprocessor with status word 8 and 0x55 in its register 5. -/
def attached : Coproc where
  present := true
  supervisorOnly := false
  held := { status := 8, regs := (Vector.replicate 16 0).set 5 0x55 }

/-- The four flags, C highest. -/
def flags (s : State) : BitVec 4 :=
  BitVec.ofBool s.sr.c ++ BitVec.ofBool s.sr.z ++ BitVec.ofBool s.sr.s ++ BitVec.ofBool s.sr.v

/-- A word of memory. -/
def wordOf (s : State) (a : Nat) : Word := readSized s.sr.endian s.mem a .word

/-- SR as a word. -/
def srOf (s : State) : Word := SR.toWord s.cfg.srLayout s.sr

/-- The instruction of a halfword answers a next state with this property. -/
def after (w : Half) (s : State) (p : State → Bool) : Bool :=
  match exec (decode w) s with
  | .next t => p t
  | .fault _ => false
  | .refused _ => false

/-! ### Decoding: every row, a word written out from its encoding in 30_encoding.md -/

theorem test_decode_load_store_1 :
    decode 0x0D62 = .ldIdx 13 6 2 ∧ decode 0x1D62 = .stIdx 13 6 2
      ∧ decode 0x2D62 = .ldbIdx 13 6 2 ∧ decode 0x2DE2 = .ldsIdx 13 6 2
      ∧ decode 0x3D62 = .stbIdx 13 6 2 ∧ decode 0x3DE2 = .stsIdx 13 6 2
      ∧ decode 0x8D62 = .ldbuIdx 13 6 2 ∧ decode 0x8DE2 = .ldsuIdx 13 6 2
      ∧ decode 0x9D36 = .ldSp 13 54 ∧ decode 0x9DB6 = .stSp 13 54
      ∧ decode 0xB05D = .pushLo 93 ∧ decode 0xB25D = .pushHi 93
      ∧ decode 0xB45D = .pushSpec 93 ∧ decode 0xB15D = .popLo 93
      ∧ decode 0xB35D = .popHi 93 ∧ decode 0xB55D = .popSpec 93
      ∧ decode 0xE856 = .ldbSp 5 6 ∧ decode 0xE8D6 = .ldsSp 5 6
      ∧ decode 0xE956 = .ldbuSp 5 6 ∧ decode 0xE9D6 = .ldsuSp 5 6 := by
  decide

theorem test_decode_load_store_2 :
    decode 0xEA56 = .stbSp 5 6 ∧ decode 0xEAD6 = .stsSp 5 6
      ∧ decode 0xEB22 = .ldau 1 0 2 ∧ decode 0xEBA2 = .stau 1 0 2 := by
  decide

theorem test_decode_move :
    decode 0x6B5D = .leri 11101 ∧ decode 0xAD36 = .ldi 13 54
      ∧ decode 0xB65D = .leaAspo 93 ∧ decode 0xE14D = .mtml 13
      ∧ decode 0xE15D = .mtmh 13 ∧ decode 0xE16D = .mfml 13
      ∧ decode 0xE17D = .mfmh 13 ∧ decode 0xE18D = .mtcr0 13
      ∧ decode 0xE19D = .mtcr1 13 ∧ decode 0xE1CD = .lsea 13
      ∧ decode 0xE1DD = .lesa 13 ∧ decode 0xE1ED = .mfcr0 13
      ∧ decode 0xE1FD = .mfcr1 13 ∧ decode 0xE4D6 = .lea 13 6 := by
  decide

theorem test_decode_branch :
    decode 0xD05D = .jnv 93 ∧ decode 0xD15D = .jv 93
      ∧ decode 0xD25D = .jp 93 ∧ decode 0xD35D = .jm 93
      ∧ decode 0xD45D = .jnz 93 ∧ decode 0xD55D = .jz 93
      ∧ decode 0xD65D = .jnc 93 ∧ decode 0xD75D = .jc 93
      ∧ decode 0xD85D = .jgt 93 ∧ decode 0xD95D = .jlt 93
      ∧ decode 0xDA5D = .jge 93 ∧ decode 0xDB5D = .jle 93
      ∧ decode 0xDC5D = .jhi 93 ∧ decode 0xDD5D = .jls 93
      ∧ decode 0xDE5D = .jmp 93 ∧ decode 0xDF5D = .jal 93
      ∧ decode 0xE08D = .jr 13 ∧ decode 0xE09D = .jalr 13
      ∧ decode 0xE0A0 = .jplr 0 := by
  decide

theorem test_decode_arith_1 :
    decode 0xB8D6 = .add 13 6 ∧ decode 0xB9D6 = .adc 13 6
      ∧ decode 0xBAD6 = .sub 13 6 ∧ decode 0xBBD6 = .sbc 13 6
      ∧ decode 0xBCD6 = .and 13 6 ∧ decode 0xBDD6 = .or 13 6
      ∧ decode 0xBED6 = .xor 13 6 ∧ decode 0xBFD6 = .cmp 13 6
      ∧ decode 0xCD58 = .asrImm 13 22 ∧ decode 0xCD59 = .lsrImm 13 22
      ∧ decode 0xCD5A = .aslImm 13 22 ∧ decode 0xCD5B = .sslImm 13 22
      ∧ decode 0xCD98 = .asrReg 13 6 ∧ decode 0xCD99 = .lsrReg 13 6
      ∧ decode 0xCD9A = .aslReg 13 6 ∧ decode 0xCD9B = .sslReg 13 6
      ∧ decode 0xCDD6 = .addq 13 22 ∧ decode 0xCDF6 = .cmpq 13 22
      ∧ decode 0xE00D = .extb 13 ∧ decode 0xE01D = .exts 13 := by
  decide

theorem test_decode_arith_2 :
    decode 0xE04D = .cvb 13 ∧ decode 0xE05D = .cvs 13
      ∧ decode 0xE06D = .neg 13 ∧ decode 0xE07D = .not 13
      ∧ decode 0xE10D = .cnt0 13 ∧ decode 0xE11D = .cnt1 13
      ∧ decode 0xE3D6 = .tst 13 6 ∧ decode 0xE6A6 = .mul 5 6
      ∧ decode 0xE6B6 = .mulu 5 6 ∧ decode 0xE7D6 = .mac 13 6 := by
  decide

theorem test_decode_coprocessor :
    decode 0xED36 = .cpcmd 1 54 ∧ decode 0xED46 = .getc 1 6
      ∧ decode 0xED56 = .execCp 1 6 ∧ decode 0xED66 = .mvtc 1 6
      ∧ decode 0xED76 = .mvfc 1 6 ∧ decode 0xED86 = .ldcSp 1 6
      ∧ decode 0xED96 = .ldcIdx 1 6 ∧ decode 0xEDA6 = .stcSp 1 6
      ∧ decode 0xEDB6 = .stcIdx 1 6 := by
  decide

theorem test_decode_dsp_1 :
    decode 0xB756 = .mrs 5 6 ∧ decode 0xE02D = .mfmre 13
      ∧ decode 0xE03D = .mtmre 13 ∧ decode 0xE2A6 = .avgb 5 6
      ∧ decode 0xE2B6 = .avgs 5 6 ∧ decode 0xE556 = .ror 5 6
      ∧ decode 0xE5D6 = .rol 5 6 ∧ decode 0xF0D6 = .macb 13 6
      ∧ decode 0xF1D6 = .macs 13 6 ∧ decode 0xF2D6 = .msopb 13 6
      ∧ decode 0xF3D6 = .msops 13 6 ∧ decode 0xF4D6 = .saddb 13 6
      ∧ decode 0xF5D6 = .sadds 13 6 ∧ decode 0xF6D6 = .sadub 13 6
      ∧ decode 0xF7D6 = .sadus 13 6 ∧ decode 0xF8D6 = .sadd 13 6
      ∧ decode 0xF9A6 = .upkls 5 6 ∧ decode 0xF9B6 = .upkhs 5 6
      ∧ decode 0xFAA6 = .min 5 6 ∧ decode 0xFAB6 = .max 5 6 := by
  decide

theorem test_decode_dsp_2 :
    decode 0xFB0D = .abs 13 ∧ decode 0xFCA6 = .upk0lb 5 6
      ∧ decode 0xFCB6 = .upk0hb 5 6 ∧ decode 0xFDA6 = .upk1lb 5 6
      ∧ decode 0xFDB6 = .upk1hb 5 6 ∧ decode 0xFEA6 = .upk2lb 5 6
      ∧ decode 0xFEB6 = .upk2hb 5 6 ∧ decode 0xFFA6 = .upk3lb 5 6
      ∧ decode 0xFFB6 = .upk3hb 5 6 := by
  decide

theorem test_decode_system :
    decode 0xE0BD = .nop 13 ∧ decode 0xE0CD = .swi 13
      ∧ decode 0xE0D0 = .step 0 ∧ decode 0xE0ED = .halt 13
      ∧ decode 0xE0F0 = .brkpt 0 ∧ decode 0xE12D = .set 13
      ∧ decode 0xE13D = .clr 13 ∧ decode 0xE1A0 = .sync 0 := by
  decide

theorem test_decode_reserved :
    decode 0xB7DD = .reservedB780 93 ∧ decode 0xE1BD = .reservedE1B0 13
      ∧ decode 0xEDF6 = .reservedECC0 1 54 ∧ decode 0xFBDD = .reservedFB80 93
      ∧ decode 0xFB5D = .reservedFB40 29 ∧ decode 0xFB3D = .reservedFB20 29
      ∧ decode 0xFB1D = .reservedFB10 13 := by
  decide

/-! ### Instructions: the vectors of 95_test_vectors.md, one step each -/

/-- 95_test_vectors 1.3. -/
theorem test_ldIdx_extended :
    (after 0x0203 (prefixed 1 0x4 (word 0x1040 0xDEADBEEF (regs [(3, 0x1000)] base))) fun t =>
      readReg t 2 == 0xDEADBEEF && t.pc == 0x104 && t.leris == 0) = true := by
  decide

/-- 95_test_vectors 1.25. -/
theorem test_ldIdx_misaligned :
    (after 0x0201 (word 0x20 0x5E0 (regs [(1, 0x1002), (2, 0xAAAAAAAA)] base)) fun t => t.pc ==
      0x5E0 && readReg t 2 == 0xAAAAAAAA && wordOf t 0x1FF8 == 0x100 && wordOf t 0x1FFC == 0x43100000
      && statusWord t == 0x9003000E) = true := by
  decide

/-- 95_test_vectors 1.4. -/
theorem test_stIdx :
    (after 0x1100 (regs [(0, 0x1000), (1, 0xCAFEF00D)] base) fun t => t.mem == [(0x1000, 0x0D),
      (0x1001, 0xF0), (0x1002, 0xFE), (0x1003, 0xCA)]) = true := by
  decide

/-- 95_test_vectors 1.4. -/
theorem test_stIdx_bigEndian :
    (after 0x1100 (bigEndian (regs [(0, 0x1000), (1, 0xCAFEF00D)] base)) fun t => t.mem == [(0x1000,
      0xCA), (0x1001, 0xFE), (0x1002, 0xF0), (0x1003, 0x0D)]) = true := by
  decide

/-- 95_test_vectors 1.5. -/
theorem test_ldbIdx :
    (after 0x2532 (word 0x1000 0x80000000 (regs [(2, 0x1000)] base)) fun t => readReg t 5 ==
      0xFFFFFF80) = true := by
  decide

/-- 95_test_vectors 1.7. -/
theorem test_ldsIdx :
    (after 0x2592 (word 0x1000 0x80010000 (regs [(2, 0x1000)] base)) fun t => readReg t 5 ==
      0xFFFF8001) = true := by
  decide

/-- 95_test_vectors 1.9. -/
theorem test_stbIdx :
    (after 0x3110 (regs [(0, 0x1000), (1, 0x12345678)] base) fun t => t.mem == [(0x1001, 0x78)]) =
      true := by
  decide

/-- 95_test_vectors 1.10. -/
theorem test_stsIdx :
    (after 0x3190 (regs [(0, 0x1000), (1, 0x12345678)] base) fun t => t.mem == [(0x1002, 0x78),
      (0x1003, 0x56)]) = true := by
  decide

/-- 95_test_vectors 1.6. -/
theorem test_ldbuIdx :
    (after 0x8532 (word 0x1000 0x80000000 (regs [(2, 0x1000)] base)) fun t => readReg t 5 == 0x80) =
      true := by
  decide

/-- 95_test_vectors 1.8. -/
theorem test_ldsuIdx :
    (after 0x8592 (word 0x1000 0x80010000 (regs [(2, 0x1000)] base)) fun t => readReg t 5 == 0x8001)
      = true := by
  decide

/-- 95_test_vectors 1.11. -/
theorem test_ldSp :
    (after 0x9302 (word 0x2008 0x2A base) fun t => readReg t 3 == 0x2A && t.spr.ssp == 0x2000) =
      true := by
  decide

/-- 95_test_vectors 1.12. -/
theorem test_stSp :
    (after 0x9381 (regs [(3, 0x7)] base) fun t => t.mem == [(0x2004, 7)]) = true := by
  decide

/-- 95_test_vectors 1.13. -/
theorem test_ldbSp :
    (after 0xE814 (word 0x2000 0xFF00 base) fun t => readReg t 4 == 0xFFFFFFFF) = true := by
  decide

/-- 95_test_vectors 1.15. -/
theorem test_ldsSp :
    (after 0xE894 (word 0x2000 0xFFFE0000 base) fun t => readReg t 4 == 0xFFFFFFFE) = true := by
  decide

/-- 95_test_vectors 1.14. -/
theorem test_ldbuSp :
    (after 0xE914 (word 0x2000 0xFF00 base) fun t => readReg t 4 == 0xFF) = true := by
  decide

/-- 95_test_vectors 1.16. -/
theorem test_ldsuSp :
    (after 0xE994 (word 0x2000 0xFFFE0000 base) fun t => readReg t 4 == 0xFFFE) = true := by
  decide

/-- 95_test_vectors 1.17. -/
theorem test_stbSp :
    (after 0xEA34 (regs [(4, 0xABCD)] base) fun t => t.mem == [(0x2003, 0xCD)]) = true := by
  decide

/-- 95_test_vectors 1.18. -/
theorem test_stsSp :
    (after 0xEA94 (regs [(4, 0xABCD)] base) fun t => t.mem == [(0x2002, 0xCD), (0x2003, 0xAB)]) =
      true := by
  decide

/-- 95_test_vectors 1.19. -/
theorem test_pushSpec :
    (after 0xB43C ((fun s => { s with spr := { s.spr with lr := 0x104, mh := 1, ml := 2, er := 0x777
      } }) base) fun t => t.spr.ssp == 0x1FF0 && wordOf t 0x1FF0 == 2 && wordOf t 0x1FF4 == 1 &&
      wordOf t 0x1FF8 == 0 && wordOf t 0x1FFC == 0x104) = true := by
  decide

/-- 95_test_vectors 1.20. -/
theorem test_popSpec :
    (after 0xB53C (word 0x1FFC 0x104 (word 0x1FF4 0x1 (word 0x1FF0 0x2 (ssp 0x1FF0 base)))) fun t =>
      t.spr.ssp == 0x2000 && t.spr.ml == 2 && t.spr.mh == 1 && t.spr.lr == 0x104 && t.spr.er == 0) =
      true := by
  decide

/-- 95_test_vectors 8.14. -/
theorem test_popSpec_return :
    (after 0xB5C0 (word 0x7FFC 0x43108040 (word 0x7FF8 0x1004 (ssp 0x7FF8 base))) fun t => t.pc ==
      0x1004 && srOf t == 0x43108040 && t.spr.ssp == 0x8000) = true := by
  decide

/-- 95_test_vectors 1.21. -/
theorem test_pushLo :
    (after 0xB001 (regs [(0, 0xAA)] base) fun t => t.spr.ssp == 0x1FFC && t.mem == [(0x1FFC, 0xAA)])
      = true := by
  decide

/-- 95_test_vectors 1.22. -/
theorem test_pushLo_nothing :
    (after 0xB000 base fun t => t.spr.ssp == 0x2000 && t.mem == [] && t.pc == 0x102) = true := by
  decide

/-- 95_test_vectors 1.21. -/
theorem test_popLo :
    (after 0xB101 (word 0x1FFC 0xAA (ssp 0x1FFC base)) fun t => t.spr.ssp == 0x2000 && readReg t 0
      == 0xAA) = true := by
  decide

/-- rule R288. -/
theorem test_pushHi :
    (after 0xB281 (regs [(8, 0x11), (15, 0x22)] base) fun t => t.spr.ssp == 0x1FF8 && t.mem ==
      [(0x1FF8, 0x11), (0x1FFC, 0x22)]) = true := by
  decide

/-- rule R290. -/
theorem test_popHi :
    (after 0xB381 (word 0x1FFC 0x22 (word 0x1FF8 0x11 (ssp 0x1FF8 base))) fun t => t.spr.ssp ==
      0x2000 && readReg t 8 == 0x11 && readReg t 15 == 0x22) = true := by
  decide

/-- 95_test_vectors 1.23. -/
theorem test_ldau :
    (after 0xEB27 ((fun s => { s with spr := { s.spr with cr0 := 8 } }) (word 0x3008 0x11 (regs [(1,
      0x3000)] base))) fun t => readReg t 7 == 0x11 && t.spr.cr0 == 0xC) = true := by
  decide

/-- 95_test_vectors 1.24. -/
theorem test_stau :
    (after 0xEBD9 (regs [(2, 0x3000), (9, 0x55)] base) fun t => t.mem == [(0x3000, 0x55)] &&
      t.spr.cr1 == 4) = true := by
  decide

/-- 95_test_vectors 2.1. -/
theorem test_leri :
    (after 0x4800 base fun t => t.spr.er == 0x800 && t.sr.e && t.pc == 0x100 && t.leris == 1) = true := by
  decide

/-- 95_test_vectors 2.2. -/
theorem test_leri_twice :
    (after 0x4001 (prefixed 1 0x800 base) fun t => t.spr.er == 0x02000001 && t.sr.e) = true := by
  decide

/-- 95_test_vectors 2.5. -/
theorem test_ldi :
    (after 0xA080 base fun t => readReg t 0 == 0xFFFFFF80) = true := by
  decide

/-- 95_test_vectors 2.7. -/
theorem test_ldi_extended :
    (after 0xA208 (prefixed 2 0x1234567 base) fun t => readReg t 2 == 0x12345678 && t.pc == 0x106) =
      true := by
  decide

/-- 95_test_vectors 2.10. -/
theorem test_leaAspo :
    (after 0xB6FC base fun t => t.spr.ssp == 0x1FF0) = true := by
  decide

/-- 95_test_vectors 2.12. -/
theorem test_lea :
    (after 0xE406 (prefixed 1 0x54 (regs [(6, 0x1F00)] base)) fun t => readReg t 0 == 0x1F54) = true := by
  decide

/-- 95_test_vectors 2.14. -/
theorem test_lsea :
    (after 0xE1C8 (regs [(8, 0x3003)] base) fun t => t.spr.ssp == 0x3000) = true := by
  decide

/-- 95_test_vectors 2.20. -/
theorem test_lsea_user :
    (after 0xE1C8 (regs [(8, 0x5000)] (user base)) fun t => t.spr.usp == 0x5000 && t.spr.ssp ==
      0x2000) = true := by
  decide

/-- 95_test_vectors 2.15. -/
theorem test_lesa :
    (after 0xE1D6 base fun t => readReg t 6 == 0x2000) = true := by
  decide

/-- 95_test_vectors 2.17. -/
theorem test_mtml :
    (after 0xE143 (regs [(3, 0x5)] base) fun t => t.spr.ml == 5) = true := by
  decide

/-- 95_test_vectors 2.17. -/
theorem test_mtmh :
    (after 0xE153 (regs [(3, 0x5)] base) fun t => t.spr.mh == 5) = true := by
  decide

/-- 95_test_vectors 2.17. -/
theorem test_mfml :
    (after 0xE164 ((fun s => { s with spr := { s.spr with ml := 5 } }) base) fun t => readReg t 4 ==
      0x5) = true := by
  decide

/-- 95_test_vectors 2.17. -/
theorem test_mfmh :
    (after 0xE175 ((fun s => { s with spr := { s.spr with mh := 5 } }) base) fun t => readReg t 5 ==
      0x5) = true := by
  decide

/-- 95_test_vectors 2.19. -/
theorem test_mtcr0 :
    (after 0xE181 (regs [(1, 0xFFF000)] base) fun t => t.spr.cr0 == 0xFFF000) = true := by
  decide

/-- 95_test_vectors 2.19. -/
theorem test_mtcr1 :
    (after 0xE191 (regs [(1, 0xFFF000)] base) fun t => t.spr.cr1 == 0xFFF000) = true := by
  decide

/-- 95_test_vectors 2.19. -/
theorem test_mfcr0 :
    (after 0xE1E2 ((fun s => { s with spr := { s.spr with cr0 := 0xFFF000 } }) base) fun t =>
      readReg t 2 == 0xFFF000) = true := by
  decide

/-- 95_test_vectors 2.19. -/
theorem test_mfcr1 :
    (after 0xE1F3 ((fun s => { s with spr := { s.spr with cr1 := 0xFFF000 } }) base) fun t =>
      readReg t 3 == 0xFFF000) = true := by
  decide

/-- rule R331 and the condition of the instruction's rule. -/
theorem test_jnv :
    (after 0xD002 (withFlags 0b0000 base) (fun t => t.pc == 0x106)
      && after 0xD002 (withFlags 0b0001 base) (fun t => t.pc == 0x102)) = true := by
  decide

/-- rule R331 and the condition of the instruction's rule. -/
theorem test_jv :
    (after 0xD102 (withFlags 0b0001 base) (fun t => t.pc == 0x106)
      && after 0xD102 (withFlags 0b0000 base) (fun t => t.pc == 0x102)) = true := by
  decide

/-- rule R331 and the condition of the instruction's rule. -/
theorem test_jp :
    (after 0xD202 (withFlags 0b0000 base) (fun t => t.pc == 0x106)
      && after 0xD202 (withFlags 0b0010 base) (fun t => t.pc == 0x102)) = true := by
  decide

/-- rule R331 and the condition of the instruction's rule. -/
theorem test_jm :
    (after 0xD302 (withFlags 0b0010 base) (fun t => t.pc == 0x106)
      && after 0xD302 (withFlags 0b0000 base) (fun t => t.pc == 0x102)) = true := by
  decide

/-- rule R331 and the condition of the instruction's rule. -/
theorem test_jnz :
    (after 0xD402 (withFlags 0b0000 base) (fun t => t.pc == 0x106)
      && after 0xD402 (withFlags 0b0100 base) (fun t => t.pc == 0x102)) = true := by
  decide

/-- rule R331 and the condition of the instruction's rule. -/
theorem test_jz :
    (after 0xD502 (withFlags 0b0100 base) (fun t => t.pc == 0x106)
      && after 0xD502 (withFlags 0b0000 base) (fun t => t.pc == 0x102)) = true := by
  decide

/-- rule R331 and the condition of the instruction's rule. -/
theorem test_jnc :
    (after 0xD602 (withFlags 0b0000 base) (fun t => t.pc == 0x106)
      && after 0xD602 (withFlags 0b1000 base) (fun t => t.pc == 0x102)) = true := by
  decide

/-- rule R331 and the condition of the instruction's rule. -/
theorem test_jc :
    (after 0xD702 (withFlags 0b1000 base) (fun t => t.pc == 0x106)
      && after 0xD702 (withFlags 0b0000 base) (fun t => t.pc == 0x102)) = true := by
  decide

/-- rule R331 and the condition of the instruction's rule. -/
theorem test_jgt :
    (after 0xD802 (withFlags 0b0011 base) (fun t => t.pc == 0x106)
      && after 0xD802 (withFlags 0b0110 base) (fun t => t.pc == 0x102)) = true := by
  decide

/-- rule R331 and the condition of the instruction's rule. -/
theorem test_jlt :
    (after 0xD902 (withFlags 0b0001 base) (fun t => t.pc == 0x106)
      && after 0xD902 (withFlags 0b0011 base) (fun t => t.pc == 0x102)) = true := by
  decide

/-- rule R331 and the condition of the instruction's rule. -/
theorem test_jge :
    (after 0xDA02 (withFlags 0b0011 base) (fun t => t.pc == 0x106)
      && after 0xDA02 (withFlags 0b0010 base) (fun t => t.pc == 0x102)) = true := by
  decide

/-- rule R331 and the condition of the instruction's rule. -/
theorem test_jle :
    (after 0xDB02 (withFlags 0b0100 base) (fun t => t.pc == 0x106)
      && after 0xDB02 (withFlags 0b0000 base) (fun t => t.pc == 0x102)) = true := by
  decide

/-- rule R331 and the condition of the instruction's rule. -/
theorem test_jhi :
    (after 0xDC02 (withFlags 0b0000 base) (fun t => t.pc == 0x106)
      && after 0xDC02 (withFlags 0b0100 base) (fun t => t.pc == 0x102)) = true := by
  decide

/-- rule R331 and the condition of the instruction's rule. -/
theorem test_jls :
    (after 0xDD02 (withFlags 0b1000 base) (fun t => t.pc == 0x106)
      && after 0xDD02 (withFlags 0b0000 base) (fun t => t.pc == 0x102)) = true := by
  decide

/-- 95_test_vectors 3.4. -/
theorem test_jmp_backward :
    (after 0xDEFF base fun t => t.pc == 0x100) = true := by
  decide

/-- 95_test_vectors 3.5. -/
theorem test_jmp_extended :
    (after 0xDE00 (prefixed 1 0x8 base) fun t => t.pc == 0x1104) = true := by
  decide

/-- 95_test_vectors 3.7. -/
theorem test_jal :
    (after 0xDF0F { base with pc := 0x200 } fun t => t.pc == 0x220 && t.spr.lr == 0x202) = true := by
  decide

/-- 95_test_vectors 3.8. -/
theorem test_jr :
    (after 0xE085 (regs [(5, 0x1235)] base) fun t => t.pc == 0x1234) = true := by
  decide

/-- 95_test_vectors 3.9. -/
theorem test_jalr :
    (after 0xE092 (regs [(2, 0x4000)] { base with pc := 0x300 }) fun t => t.pc == 0x4000 && t.spr.lr
      == 0x302) = true := by
  decide

/-- 95_test_vectors 3.10. -/
theorem test_jplr :
    (after 0xE0A0 ((fun s => { s with spr := { s.spr with lr := 0x202 } }) base) fun t => t.pc ==
      0x202) = true := by
  decide

/-- 95_test_vectors 4.1. -/
theorem test_add_overflow :
    (after 0xB801 (regs [(0, 0x7FFFFFFF), (1, 0x1)] base) fun t => readReg t 0 == 0x80000000 &&
      flags t == 0b0011) = true := by
  decide

/-- 95_test_vectors 4.4. -/
theorem test_add_extended :
    (after 0xB82F (prefixed 1 0xFFFFFFFF (regs [(2, 0x1)] base)) fun t => readReg t 2 == 0x0 &&
      flags t == 0b1100) = true := by
  decide

/-- 95_test_vectors 4.5. -/
theorem test_sub_borrow :
    (after 0xBA01 (regs [(0, 0x3), (1, 0x5)] base) fun t => readReg t 0 == 0xFFFFFFFE && flags t ==
      0b1010) = true := by
  decide

/-- 95_test_vectors 4.6. -/
theorem test_sub_overflow :
    (after 0xBA01 (regs [(0, 0x80000000), (1, 0x1)] base) fun t => readReg t 0 == 0x7FFFFFFF &&
      flags t == 0b0001) = true := by
  decide

/-- 95_test_vectors 4.7. -/
theorem test_adc :
    (after 0xB923 (regs [(2, 0xFFFFFFFF)] (withFlags 0b1000 base)) fun t => readReg t 2 == 0x0 &&
      flags t == 0b1100) = true := by
  decide

/-- 95_test_vectors 4.8. -/
theorem test_sbc :
    (after 0xBB13 (withFlags 0b1000 base) fun t => readReg t 1 == 0xFFFFFFFF && flags t == 0b1010) =
      true := by
  decide

/-- 95_test_vectors 4.9. -/
theorem test_and :
    (after 0xBC1F (prefixed 1 0xFFFFF7FF (regs [(1, 0xFFFFFFFF)] (withFlags 0b1000 base))) fun t =>
      readReg t 1 == 0xFFFF7FFF && flags t == 0b1010) = true := by
  decide

/-- 95_test_vectors 4.10. -/
theorem test_or :
    (after 0xBD10 (prefixed 1 0x800 base) fun t => readReg t 1 == 0x8000 && flags t == 0b0000) =
      true := by
  decide

/-- 95_test_vectors 4.11. -/
theorem test_xor :
    (after 0xBE44 (regs [(4, 0x1234)] base) fun t => readReg t 4 == 0x0 && flags t == 0b0100) = true := by
  decide

/-- 95_test_vectors 4.12. -/
theorem test_cmp :
    (after 0xBF01 (regs [(0, 0x3), (1, 0x5)] base) fun t => readReg t 0 == 0x3 && flags t == 0b1010)
      = true := by
  decide

/-- 95_test_vectors 4.14. -/
theorem test_addq :
    (after 0xC3DF (regs [(3, 0x5)] base) fun t => readReg t 3 == 0x4 && flags t == 0b1000) = true := by
  decide

/-- 95_test_vectors 4.15. -/
theorem test_addq_largest :
    (after 0xC3CF (regs [(3, 0x7FFFFFF8)] base) fun t => readReg t 3 == 0x80000007 && flags t ==
      0b0011) = true := by
  decide

/-- 95_test_vectors 4.17. -/
theorem test_cmpq :
    (after 0xC3EA (regs [(3, 0xA)] base) fun t => readReg t 3 == 0xA && flags t == 0b0100) = true := by
  decide

/-- 95_test_vectors 4.19. -/
theorem test_asrImm :
    (after 0xC204 (regs [(2, 0x80000005)] base) fun t => readReg t 2 == 0xC0000002 && flags t ==
      0b1010) = true := by
  decide

/-- 95_test_vectors 4.20. -/
theorem test_asrImm_31 :
    (after 0xC27C (regs [(2, 0x80000000)] base) fun t => readReg t 2 == 0xFFFFFFFF && flags t ==
      0b0010) = true := by
  decide

/-- 95_test_vectors 4.21. -/
theorem test_lsrImm :
    (after 0xC205 (regs [(2, 0x80000005)] base) fun t => readReg t 2 == 0x40000002 && flags t ==
      0b1000) = true := by
  decide

/-- 95_test_vectors 4.23. -/
theorem test_aslImm :
    (after 0xC206 (regs [(2, 0x80000005)] base) fun t => readReg t 2 == 0xA && flags t == 0b1000) =
      true := by
  decide

/-- 95_test_vectors 4.24. -/
theorem test_aslReg :
    (after 0xC28E (regs [(3, 0x24), (2, 0x80000005)] base) fun t => readReg t 2 == 0x50 && flags t
      == 0b0000) = true := by
  decide

/-- 95_test_vectors 4.25. -/
theorem test_sslImm :
    (after 0xC213 (regs [(2, 0x1)] base) fun t => readReg t 2 == 0x1F && flags t == 0b0000) = true := by
  decide

/-- rule R371. -/
theorem test_asrReg :
    (after 0xC28C (regs [(3, 0x1), (2, 0x80000005)] base) fun t => readReg t 2 == 0xC0000002 &&
      flags t == 0b1010) = true := by
  decide

/-- rule R372. -/
theorem test_lsrReg :
    (after 0xC28D (regs [(3, 0x21), (2, 0x80000005)] base) fun t => readReg t 2 == 0x40000002 &&
      flags t == 0b1000) = true := by
  decide

/-- rule R374, 4.26. -/
theorem test_sslReg :
    (after 0xC28F (regs [(3, 0x1F), (2, 0x3)] base) fun t => readReg t 2 == 0xFFFFFFFF && flags t ==
      0b1010) = true := by
  decide

/-- 95_test_vectors 4.27. -/
theorem test_tst :
    (after 0xE312 (regs [(1, 0x8000), (2, 0x8000)] base) fun t => readReg t 1 == 0x8000 && flags t
      == 0b0000) = true := by
  decide

/-- 95_test_vectors 4.30. -/
theorem test_mul :
    (after 0xE601 (regs [(0, 0xFFFFFFFE), (1, 0x3)] base) fun t => t.spr.mh == 0xFFFFFFFF &&
      t.spr.ml == 0xFFFFFFFA) = true := by
  decide

/-- 95_test_vectors 4.31. -/
theorem test_mulu :
    (after 0xE611 (regs [(0, 0xFFFFFFFE), (1, 0x3)] base) fun t => t.spr.mh == 2 && t.spr.ml ==
      0xFFFFFFFA) = true := by
  decide

/-- 95_test_vectors 4.33. -/
theorem test_mac :
    (after 0xE723 ((fun s => { s with spr := { s.spr with ml := 0xFFFFFFFF } }) (regs [(2, 0x2), (3,
      0x3)] base)) fun t => t.spr.mh == 1 && t.spr.ml == 5) = true := by
  decide

/-- 95_test_vectors 4.35. -/
theorem test_extb :
    (after 0xE001 (regs [(1, 0x12345680)] base) fun t => readReg t 1 == 0xFFFFFF80 && flags t ==
      0b0010) = true := by
  decide

/-- 95_test_vectors 4.36. -/
theorem test_exts :
    (after 0xE011 (regs [(1, 0x12348000)] base) fun t => readReg t 1 == 0xFFFF8000 && flags t ==
      0b0010) = true := by
  decide

/-- 95_test_vectors 4.37. -/
theorem test_cvb :
    (after 0xE041 (regs [(1, 0x12345680)] base) fun t => readReg t 1 == 0x80 && flags t == 0b0000) =
      true := by
  decide

/-- 95_test_vectors 4.38. -/
theorem test_cvs :
    (after 0xE051 (regs [(1, 0x12348000)] base) fun t => readReg t 1 == 0x8000 && flags t == 0b0000)
      = true := by
  decide

/-- 95_test_vectors 4.39. -/
theorem test_neg :
    (after 0xE063 (regs [(3, 0x1)] base) fun t => readReg t 3 == 0xFFFFFFFF) = true := by
  decide

/-- 95_test_vectors 4.40. -/
theorem test_not :
    (after 0xE073 (regs [(3, 0xFFFFFFFF)] base) fun t => readReg t 3 == 0x0 && flags t == 0b0100) =
      true := by
  decide

/-- 95_test_vectors 4.41. -/
theorem test_cnt0 :
    (after 0xE104 (regs [(4, 0x10000)] base) fun t => readReg t 4 == 0xF && flags t == 0b0000) =
      true := by
  decide

/-- 95_test_vectors 4.41. -/
theorem test_cnt0_zero :
    (after 0xE104 base fun t => readReg t 4 == 0x20 && flags t == 0b0000) = true := by
  decide

/-- 95_test_vectors 4.42. -/
theorem test_cnt1 :
    (after 0xE114 (regs [(4, 0xFFFF0000)] base) fun t => readReg t 4 == 0x10 && flags t == 0b0000) =
      true := by
  decide

/-- 95_test_vectors 5.7. -/
theorem test_mvtc_vectorBase :
    (after 0xEC6C (regs [(0, 0x12345678)] base) fun t => t.scp.vectorBase == 0x12345400) = true := by
  decide

/-- 95_test_vectors 5.10. -/
theorem test_mvfc_user :
    (after 0xEC7F (word 0x20 0x5E0 (user base)) fun t => t.pc == 0x5E0 && srOf t == 0x43100000 &&
      wordOf t 0x1FFC == 0x43108000 && statusWord t == 0x9003000A) = true := by
  decide

/-- 95_test_vectors 5.9. -/
theorem test_cpcmd_absent :
    (after 0xED05 (word 0x24 0x5E0 base) fun t => t.pc == 0x5E0 && wordOf t 0x1FF8 == 0x100) = true := by
  decide

/-- 95_test_vectors 5.9. -/
theorem test_getc_absent :
    (after 0xEE43 (word 0x28 0x5E0 base) fun t => t.pc == 0x5E0 && wordOf t 0x1FF8 == 0x100) = true := by
  decide

/-- 95_test_vectors 5.9. -/
theorem test_execCp_absent :
    (after 0xEF50 (word 0x2C 0x5E0 base) fun t => t.pc == 0x5E0 && wordOf t 0x1FF8 == 0x100) = true := by
  decide

/-- 95_test_vectors 5.9. -/
theorem test_ldcSp_absent :
    (after 0xED82 (word 0x24 0x5E0 base) fun t => t.pc == 0x5E0 && wordOf t 0x1FF8 == 0x100) = true := by
  decide

/-- 95_test_vectors 5.9. -/
theorem test_stcIdx_absent :
    (after 0xEEB1 (word 0x28 0x5E0 base) fun t => t.pc == 0x5E0 && wordOf t 0x1FF8 == 0x100) = true := by
  decide

/-- rule R427: bit 3 of the status word is 1. -/
theorem test_getc :
    (after 0xED43 ((fun s => { s with cp1 := attached }) base) fun t => t.sr.z == false && t.pc ==
      0x102) = true := by
  decide

/-- rule R428: bit 0 of the status word is 0. -/
theorem test_execCp :
    (after 0xED50 ((fun s => { s with cp1 := attached }) base) fun t => t.sr.z && t.pc == 0x102) =
      true := by
  decide

/-- rule R425. -/
theorem test_mvtc_attached :
    (after 0xED62 ((fun s => { s with cp1 := attached }) (regs [(0, 0x7)] base)) fun t => heldReg
      t.cp1.held 2 == 7) = true := by
  decide

/-- rule R426. -/
theorem test_mvfc_attached :
    (after 0xED75 ((fun s => { s with cp1 := attached }) base) fun t => readReg t 0 == 0x55) = true := by
  decide

/-- rule R429. -/
theorem test_ldcSp :
    (after 0xED82 ((fun s => { s with cp1 := attached }) (word 0x2000 0x9 base)) fun t => heldReg
      t.cp1.held 2 == 9) = true := by
  decide

/-- rule R429. -/
theorem test_ldcIdx :
    (after 0xED92 ((fun s => { s with cp1 := attached }) (prefixed 1 0x4 (word 0x1004 0x9 (regs [(1,
      0x1000)] base)))) fun t => heldReg t.cp1.held 2 == 9) = true := by
  decide

/-- rule R430. -/
theorem test_stcSp :
    (after 0xEDA5 ((fun s => { s with cp1 := attached }) base) fun t => t.mem == [(0x2000, 0x55)]) =
      true := by
  decide

/-- rule R430. -/
theorem test_stcIdx :
    (after 0xEDB5 ((fun s => { s with cp1 := attached }) (regs [(1, 0x1000)] base)) fun t => t.mem
      == [(0x1000, 0x55)]) = true := by
  decide

/-- 95_test_vectors 6.1. -/
theorem test_mtmre :
    (after 0xE032 (regs [(2, 0x12)] base) fun t => t.spr.mre == 0x12) = true := by
  decide

/-- 95_test_vectors 6.1. -/
theorem test_mfmre :
    (after 0xE023 ((fun s => { s with spr := { s.spr with mre := 0x12 } }) base) fun t => readReg t
      3 == 0x12) = true := by
  decide

/-- 95_test_vectors 6.2. -/
theorem test_saddb :
    (after 0xF401 (regs [(0, 0x7F80FF01), (1, 0x1FF0101)] base) fun t => readReg t 0 == 0x7F800002)
      = true := by
  decide

/-- 95_test_vectors 6.3. -/
theorem test_sadds :
    (after 0xF501 (regs [(0, 0x7FFF8000), (1, 0x1FFFF)] base) fun t => readReg t 0 == 0x7FFF8000) =
      true := by
  decide

/-- 95_test_vectors 6.4. -/
theorem test_sadub :
    (after 0xF601 (regs [(0, 0x7F80FF01), (1, 0x1FF0101)] base) fun t => readReg t 0 == 0x80FFFF02)
      = true := by
  decide

/-- 95_test_vectors 6.5. -/
theorem test_sadus :
    (after 0xF701 (regs [(0, 0x7FFF8000), (1, 0x1FFFF)] base) fun t => readReg t 0 == 0x8000FFFF) =
      true := by
  decide

/-- 95_test_vectors 6.6. -/
theorem test_sadd :
    (after 0xF801 (regs [(0, 0x80000000), (1, 0xFFFFFFFF)] base) fun t => readReg t 0 == 0x80000000)
      = true := by
  decide

/-- 95_test_vectors 6.7. -/
theorem test_sadd_extended :
    (after 0xF804 (prefixed 1 0x6 (regs [(0, 0x5)] base)) fun t => readReg t 0 == 0x69) = true := by
  decide

/-- 95_test_vectors 6.8 to 6.13. -/
theorem test_upkls :
    (after 0xF941 (regs [(4, 0x11223344), (5, 0xAABBCCDD), (1, 0xFFFFFFFF)] base) fun t => readReg t
      1 == 0x3344CCDD) = true := by
  decide

/-- 95_test_vectors 6.8 to 6.13. -/
theorem test_upkhs :
    (after 0xF951 (regs [(4, 0x11223344), (5, 0xAABBCCDD), (1, 0xFFFFFFFF)] base) fun t => readReg t
      1 == 0x1122AABB) = true := by
  decide

/-- 95_test_vectors 6.8 to 6.13. -/
theorem test_upk0lb :
    (after 0xFC41 (regs [(4, 0x11223344), (5, 0xAABBCCDD), (1, 0xFFFFFFFF)] base) fun t => readReg t
      1 == 0xFFFF44DD) = true := by
  decide

/-- 95_test_vectors 6.8 to 6.13. -/
theorem test_upk0hb :
    (after 0xFC51 (regs [(4, 0x11223344), (5, 0xAABBCCDD), (1, 0xFFFFFFFF)] base) fun t => readReg t
      1 == 0x44DDFFFF) = true := by
  decide

/-- 95_test_vectors 6.8 to 6.13. -/
theorem test_upk1lb :
    (after 0xFD41 (regs [(4, 0x11223344), (5, 0xAABBCCDD), (1, 0xFFFFFFFF)] base) fun t => readReg t
      1 == 0xFFFF33CC) = true := by
  decide

/-- 95_test_vectors 6.8 to 6.13. -/
theorem test_upk1hb :
    (after 0xFD51 (regs [(4, 0x11223344), (5, 0xAABBCCDD), (1, 0xFFFFFFFF)] base) fun t => readReg t
      1 == 0x33CCFFFF) = true := by
  decide

/-- 95_test_vectors 6.8 to 6.13. -/
theorem test_upk2lb :
    (after 0xFE41 (regs [(4, 0x11223344), (5, 0xAABBCCDD), (1, 0xFFFFFFFF)] base) fun t => readReg t
      1 == 0xFFFF22BB) = true := by
  decide

/-- 95_test_vectors 6.8 to 6.13. -/
theorem test_upk2hb :
    (after 0xFE51 (regs [(4, 0x11223344), (5, 0xAABBCCDD), (1, 0xFFFFFFFF)] base) fun t => readReg t
      1 == 0x22BBFFFF) = true := by
  decide

/-- 95_test_vectors 6.8 to 6.13. -/
theorem test_upk3lb :
    (after 0xFF41 (regs [(4, 0x11223344), (5, 0xAABBCCDD), (1, 0xFFFFFFFF)] base) fun t => readReg t
      1 == 0xFFFF11AA) = true := by
  decide

/-- 95_test_vectors 6.8 to 6.13. -/
theorem test_upk3hb :
    (after 0xFF51 (regs [(4, 0x11223344), (5, 0xAABBCCDD), (1, 0xFFFFFFFF)] base) fun t => readReg t
      1 == 0x11AAFFFF) = true := by
  decide

/-- 95_test_vectors 6.14. -/
theorem test_avgb :
    (after 0xE241 (regs [(2, 0x10FF0003), (1, 0x20FF0104)] base) fun t => readReg t 2 == 0x18FF0003)
      = true := by
  decide

/-- 95_test_vectors 6.15. -/
theorem test_avgs :
    (after 0xE251 (regs [(2, 0x3FFFF), (1, 0x4FFFF)] base) fun t => readReg t 2 == 0x3FFFF) = true := by
  decide

/-- 95_test_vectors 6.16. -/
theorem test_ror :
    (after 0xE531 (regs [(1, 0x80000001)] base) fun t => readReg t 1 == 0x30000000) = true := by
  decide

/-- 95_test_vectors 6.16. -/
theorem test_rol :
    (after 0xE5B1 (regs [(1, 0x80000001)] base) fun t => readReg t 1 == 0xC) = true := by
  decide

/-- 95_test_vectors 6.17. -/
theorem test_min :
    (after 0xFA41 (regs [(2, 0xFFFFFFFF), (1, 0x1)] base) fun t => readReg t 2 == 0xFFFFFFFF) = true := by
  decide

/-- 95_test_vectors 6.17. -/
theorem test_max :
    (after 0xFA51 (regs [(2, 0xFFFFFFFF), (1, 0x1)] base) fun t => readReg t 2 == 0x1) = true := by
  decide

/-- 95_test_vectors 6.18. -/
theorem test_abs :
    (after 0xFB03 (regs [(3, 0xFFFFFFFB)] base) fun t => readReg t 3 == 0x5) = true := by
  decide

/-- 95_test_vectors 6.19: no general register changes, the accumulators are open. -/
theorem test_macb :
    (after 0xF021 base fun t => t.gpr == base.gpr && t.pc == 0x102) = true := by
  decide

/-- 95_test_vectors 6.19: no general register changes, the accumulators are open. -/
theorem test_macs :
    (after 0xF121 base fun t => t.gpr == base.gpr && t.pc == 0x102) = true := by
  decide

/-- 95_test_vectors 6.19: no general register changes, the accumulators are open. -/
theorem test_msopb :
    (after 0xF221 base fun t => t.gpr == base.gpr && t.pc == 0x102) = true := by
  decide

/-- 95_test_vectors 6.19: no general register changes, the accumulators are open. -/
theorem test_msops :
    (after 0xF321 base fun t => t.gpr == base.gpr && t.pc == 0x102) = true := by
  decide

/-- 95_test_vectors 6.20. -/
theorem test_mrs_unimplemented :
    (after 0xB721 (word 0x3C 0x5E0 ((fun s => { s with cfg := { s.cfg with dspExt := false } })
      base)) fun t => t.pc == 0x5E0 && wordOf t 0x1FF8 == 0x100 && t.scp.backupIr == 0xB721 &&
      t.scp.backupPc == 0x100) = true := by
  decide

/-- rule R491, R552, 7.2. -/
theorem test_nop_latches :
    (after 0xE0B1 (prefixed 1 0x77 { base with pc := 0x200 }) fun t => t.scp.backupIr == 0xE0B1 &&
      t.scp.backupPc == 0x202 && t.scp.backupEr == 0x77) = true := by
  decide

/-- 95_test_vectors 7.4. -/
theorem test_set :
    (after 0xE12D base fun t => srOf t == 0x43102000) = true := by
  decide

/-- 95_test_vectors 7.3. -/
theorem test_clr :
    (after 0xE137 (withFlags 0b1000 base) fun t => srOf t == 0x43100000) = true := by
  decide

/-- 95_test_vectors 7.7. -/
theorem test_swi :
    (after 0xE0C1 (ssp 0x8000 (word 0x44 0x5E1 (user (withFlags 0b0100 { base with pc := 0x1000
      })))) fun t => wordOf t 0x7FFC == 0x43108040 && wordOf t 0x7FF8 == 0x1002 && t.spr.ssp == 0x7FF8
      && srOf t == 0x43100040 && t.pc == 0x5E0) = true := by
  decide

/-- 95_test_vectors 8.7. -/
theorem test_swi_lockup :
    (after 0xE0C1 (ssp 0x40000000 base) fun t => t.lockup && t.events == [.pmuError]) = true := by
  decide

/-- 95_test_vectors 7.9. -/
theorem test_halt :
    (after 0xE0E0 base fun t => t.halted && t.pc == 0x102 && t.events == [.pmuHalt 0]) = true := by
  decide

/-- rule R499. -/
theorem test_sync :
    (after 0xE1A0 base fun t => t.pc == 0x102 && t.gpr == base.gpr) = true := by
  decide

/-- 95_test_vectors 8.1. -/
theorem test_reservedB780 :
    (after 0xB780 (prefixed 1 0x1 (word 0x38 0x5E0 base)) fun t => t.pc == 0x5E0 && wordOf t 0x1FF8
      == 0x100 && t.scp.backupIr == 0xB780 && t.scp.backupPc == 0x102 && t.scp.backupEr == 1) = true := by
  decide

/-- 95_test_vectors 8.1. -/
theorem test_reservedE1B0 :
    (after 0xE1B5 (prefixed 1 0x1 (word 0x38 0x5E0 base)) fun t => t.pc == 0x5E0 && wordOf t 0x1FF8
      == 0x100 && t.scp.backupIr == 0xE1B5 && t.scp.backupPc == 0x102 && t.scp.backupEr == 1) = true := by
  decide

/-- 95_test_vectors 8.1. -/
theorem test_reservedECC0 :
    (after 0xECC7 (prefixed 1 0x1 (word 0x38 0x5E0 base)) fun t => t.pc == 0x5E0 && wordOf t 0x1FF8
      == 0x100 && t.scp.backupIr == 0xECC7 && t.scp.backupPc == 0x102 && t.scp.backupEr == 1) = true := by
  decide

/-- 95_test_vectors 8.1. -/
theorem test_reservedFB80 :
    (after 0xFB80 (prefixed 1 0x1 (word 0x38 0x5E0 base)) fun t => t.pc == 0x5E0 && wordOf t 0x1FF8
      == 0x100 && t.scp.backupIr == 0xFB80 && t.scp.backupPc == 0x102 && t.scp.backupEr == 1) = true := by
  decide

/-- 95_test_vectors 8.1. -/
theorem test_reservedFB40 :
    (after 0xFB40 (prefixed 1 0x1 (word 0x38 0x5E0 base)) fun t => t.pc == 0x5E0 && wordOf t 0x1FF8
      == 0x100 && t.scp.backupIr == 0xFB40 && t.scp.backupPc == 0x102 && t.scp.backupEr == 1) = true := by
  decide

/-- 95_test_vectors 8.1. -/
theorem test_reservedFB20 :
    (after 0xFB20 (prefixed 1 0x1 (word 0x38 0x5E0 base)) fun t => t.pc == 0x5E0 && wordOf t 0x1FF8
      == 0x100 && t.scp.backupIr == 0xFB20 && t.scp.backupPc == 0x102 && t.scp.backupEr == 1) = true := by
  decide

/-- 95_test_vectors 8.1. -/
theorem test_reservedFB10 :
    (after 0xFB10 (prefixed 1 0x1 (word 0x38 0x5E0 base)) fun t => t.pc == 0x5E0 && wordOf t 0x1FF8
      == 0x100 && t.scp.backupIr == 0xFB10 && t.scp.backupPc == 0x102 && t.scp.backupEr == 1) = true := by
  decide

/-! ### What WellFormed refuses (30_encoding.md R215) -/

theorem test_wellFormed_jplr : (Instr.jplr 1).wellFormed = false ∧ (Instr.jplr 0).wellFormed = true := by decide

theorem test_wellFormed_step : (Instr.step 1).wellFormed = false ∧ (Instr.step 0).wellFormed = true := by decide

theorem test_wellFormed_brkpt : (Instr.brkpt 15).wellFormed = false ∧ (Instr.brkpt 0).wellFormed = true := by
  decide

theorem test_wellFormed_sync : (Instr.sync 8).wellFormed = false ∧ (Instr.sync 0).wellFormed = true := by decide

/-! ### Decoding bytes, and running a placed word -/

/-- R219: little-endian memory holds 0xB43C as the bytes 3C B4. -/
theorem test_decodeBytes : decodeBytes false [0x3C, 0xB4, 0x01] = .ok (.pushSpec 0x3C, [0x01])
    ∧ decodeBytes true [0xB4, 0x3C] = .ok (.pushSpec 0x3C, []) := by decide

theorem test_decodeTableWord : decodeTableWord 16 0xB43C = some (.pushSpec 0x3C) := by decide

/-- The first step after reset fetches, decodes and runs a placed word. -/
theorem test_withFetchWord :
    (match step (State.reset.withFetchWord 16 0xA080) with
      | .next t => readReg t 0 == 0xFFFFFF80 && t.pc == 2
      | .fault _ => false
      | .refused _ => false) = true := by decide

/-- 20_memory.md R183, last sentence: after a store to uncached memory and SYNC an uncached fetch has one
choice; a cached one still has two, and so has any fetch without the SYNC. -/
theorem test_sync_settles_uncached :
    let s := storeAt .half { space := .bus, addr := 0x200 } 0 0xB801 base
    fetchChoices (syncStale s) { space := .bus, addr := 0x200 } 0 = [0xB801]
      ∧ fetchChoices (syncStale s) { space := .bus, addr := 0x200 } 2 = [0xB801, 0]
      ∧ fetchChoices s { space := .bus, addr := 0x200 } 0 = [0xB801, 0] := by decide

/-- 10_state.md R90: after a Reset event SCPR6 reads 0, and pc is at the word at address 0. -/
theorem test_reset_event :
    (match step (resetRequested (word 0 0x105 base)) with
      | .next t => t.pc == 0x104 && (scprRead 6 t).1 == 0
      | .fault _ => false
      | .refused _ => false) = true := by decide +kernel

/-! ### States that meet the hypotheses of the statements -/

/-- Memory in the first megabyte, a device at 0x10000000, an open bus at 0x20000000. -/
def mapped : State :=
  { base with cfg := { base.cfg with platform :=
      [{ first := 0, last := 0xFFFFF, kind := .ram },
        { first := 0x10000000, last := 0x10000FFF, kind := .device },
        { first := 0x20000000, last := 0x20000FFF, kind := .openBus }] } }

/-- Register 1 pointing at memory, the device, the open bus, nothing, or an odd address. -/
def pointing (v : Word) : State := regs [(1, v)] mapped

/-- An access in plain RAM of the start state: neither scratch-pad, translation nor sub-bank is on. -/
theorem plainRam_of (user : Bool) (va : Word) (s : State) (h1 : spmHits s va = [])
    (h2 : (bankNibble s va).getLsbD 3 = false) (h3 : ∀ b ∈ s.scp.subBanks.toList, subBankMatches va b = false)
    (h4 : user = true → (bankNibble s va).getLsbD 2 = true) (h5 : regionAt s.cfg.platform va = some .ram) :
    PlainRam user va s := ⟨h1, .inl h2, h3, h4, h5⟩

theorem plainStack_base : PlainStack false (base.spr.ssp - 8) 2 base :=
  ⟨by decide, fun k hk => by
    have : k = 0 ∨ k = 1 := by omega
    rcases this with rfl | rfl <;> exact plainRam_of _ _ _ (by decide) (by decide) (by decide) (by decide) (by decide)⟩

theorem plainRam_vector (v : Word) (h : v = 0x44 ∨ v = 0x38 ∨ v = 0x10 ∨ v = 0x20) : PlainRam false v base := by
  rcases h with rfl | rfl | rfl | rfl <;>
    exact plainRam_of _ _ _ (by decide) (by decide) (by decide) (by decide) (by decide)

/-- A stack of `n` words at `bottom` of a state whose accesses there are plain. -/
theorem plainStack_of (user : Bool) (bottom : Word) (n : Nat) (s : State) (h0 : bottom.extractLsb' 0 2 = 0)
    (h : ∀ k : Fin n, spmHits s (bottom + 4 * BitVec.ofNat 32 k) = []
      ∧ (bankNibble s (bottom + 4 * BitVec.ofNat 32 k)).getLsbD 3 = false
      ∧ (∀ b ∈ s.scp.subBanks.toList, subBankMatches (bottom + 4 * BitVec.ofNat 32 k) b = false)
      ∧ (user = true → (bankNibble s (bottom + 4 * BitVec.ofNat 32 k)).getLsbD 2 = true)
      ∧ regionAt s.cfg.platform (bottom + 4 * BitVec.ofNat 32 k) = some .ram) : PlainStack user bottom n s :=
  ⟨h0, fun k hk => let ⟨a, b, c, d, e⟩ := h ⟨k, hk⟩; plainRam_of _ _ _ a b c d e⟩

/-! One witness for each statement with hypotheses, in their order; a statement whose clauses part a case is
met at each of them. -/

/-- `ADD %r1, %r0` at pc; a fetch outside the platform; inside a unit; between units with an interrupt
masked; nothing stale. -/
theorem witness_StepRunsDecoded :
    (∃ u v, boundary (word 0x100 0xB801 base) = .run u ∧ fetchHalf u = .ok 0xB801 v
      ∧ decode 0xB801 = .add 0 1 ∧ (Instr.add 0 1).wellFormed = true)
    ∧ (∃ u v, boundary { base with pc := 0x40000000 } = .run u ∧ fetchHalf u = .raise 0x10 v)
    ∧ ((prefixed 1 5 base).sr.modeLo = false ∧ (prefixed 1 5 base).sr.e = true)
    ∧ (base.sr.modeLo = false ∧ base.sr.e = false ∧ base.lockup = false ∧ base.halted = false
      ∧ (requestNow base).resetReq = false ∧ (requestNow base).nmiPending = false
      ∧ (requestNow base).intPending = false)
    ∧ (PlainRam (isUser base) (fetchAddr base) base ∧ ∀ e ∈ base.stale, e.loc ≠ busLoc (fetchAddr base)) :=
  ⟨⟨_, _, rfl, rfl, by decide, by decide⟩, ⟨_, _, rfl, rfl⟩, by decide, by decide,
    plainRam_of _ _ _ (by decide) (by decide) (by decide) (by decide) (by decide), by decide⟩

theorem witness_StepKeepsInvariant : MachineInv (word 0x100 0xB801 base)
    ∧ ∃ t, step (word 0x100 0xB801 base) = .next t :=
  ⟨by constructor <;> decide, ⟨_, rfl⟩⟩

/-- User mode, all coprocessors for supervisor use only, an ADD. -/
theorem witness_UserStepKeepsSupervisorState :
    let s := { user (word 0x100 0xB801 base) with
      cp1 := { absentCoproc with supervisorOnly := true }, cp2 := { absentCoproc with supervisorOnly := true }
      cp3 := { absentCoproc with supervisorOnly := true } }
    isUser s = true ∧ s.cp1.supervisorOnly = true ∧ s.cp2.supervisorOnly = true ∧ s.cp3.supervisorOnly = true
      ∧ ∃ t, step s = .next t ∧ isUser t = true ∧ t.lockup = false :=
  ⟨by decide, by decide, by decide, by decide, _, rfl, by decide, by decide⟩

/-- User mode, a SWI. -/
theorem witness_UserModeLeftOnlyByEntry :
    let s := user (word 0x100 0xE0C1 base)
    isUser s = true ∧ s.lockup = false ∧ (requestNow s).resetReq = false
      ∧ ∃ t, step s = .next t ∧ isUser t = false :=
  ⟨by decide, by decide, by decide, _, rfl, by decide⟩

theorem witness_StepKeepsConfiguration : ∃ t, step (word 0x100 0xB801 base) = .next t := ⟨_, rfl⟩

/-- The first and the last byte of a word, and the addresses next to it. -/
theorem witness_StoredValueReadsBack :
    0 < sizeBytes .word ∧ 3 < sizeBytes .word ∧ 3 < 4 ∧ 4 + sizeBytes .word ≤ 8 := by decide

theorem witness_OperandForms :
    base.sr.e = false ∧ (prefixed 1 5 base).sr.e = true ∧ (prefixed 1 5 base).cfg.extOffsetRule = .low4
      ∧ 30 + 2 ≤ 32 ∧ 32 ≤ 32
      ∧ (let s := { prefixed 1 5 base with cfg := { base.cfg with extOffsetRule := .full } }
        s.sr.e = true ∧ s.cfg.extOffsetRule = .full) := by decide

theorem witness_LeriExtends : base.sr.e = false ∧ (prefixed 1 5 base).sr.e = true := by decide

theorem witness_TwoPrefixesLoadAnyConstant :
    base.sr.e = false ∧ base.leris = 0 ∧ base.cfg.extOffsetRule = .low4 := by decide

theorem witness_ImmediateAndAddressMoves : isUser base = false ∧ isUser (user base) = true := by decide

/-- Shift amounts 1 and 31, and 32 in a register, which is 0. -/
theorem witness_ShiftInstructions : 0 < (1 : BitVec 5).toNat ∧ 0 < (31 : BitVec 5).toNat
    ∧ (readReg (regs [(3, 32)] base) 3).toNat % 32 = 0 := by decide

theorem witness_MultiplyInstructions :
    ({ base.cfg with mulRdResult := .unchanged } : Params).mulRdResult = .unchanged
      ∧ ({ base.cfg with mulRdResult := .low32 } : Params).mulRdResult = .low32
      ∧ ({ base.cfg with mulRdResult := .pair } : Params).mulRdResult = .pair := by decide

/-- Both rules; counts 0, 15 and 32: a counted bit, the bit that ends the count, and none. -/
theorem witness_ExtensionInstructions :
    (31 < 32 ∧ 32 ≤ 31 + (15 : Word).toNat) ∧ (17 < 32 ∧ 32 ≤ 17 + (15 : Word).toNat) ∧ (15 : Word).toNat < 32
      ∧ (0 : Word).toNat < 32 ∧ (0 < 32 ∧ 32 ≤ 0 + (32 : Word).toNat) ∧
    base.cfg.cvtRule = .zext ∧ ({ base.cfg with cvtRule := .saturate } : Params).cvtRule = .saturate := by decide

/-- JNZ taken and not taken. -/
theorem witness_ConditionalJumps : base.sr.z = false ∧ ¬((withFlags 0b0100 base).sr.z = false) := by decide

/-- 3 against 5 as unsigned and signed, and equal. -/
theorem witness_CompareThenJump :
    (let s := regs [(0, 3), (1, 5)] base;
      (readReg s 0).toNat < (srcImm s 1).toNat ∧ (readReg s 0).toInt < (srcImm s 1).toInt
        ∧ readReg s 0 ≠ srcImm s 1)
      ∧ readReg base 0 = srcImm base 1 := by decide

/-- A word load from memory, from a device and from an open bus. -/
theorem witness_LoadInstructions :
    (∃ l c u, locate .read (isUser (pointing 0x1000)) .word (indexAddr (pointing 0x1000) 1 (0 : BitVec 4) .word)
        (pointing 0x1000) = .ok (.storage l c) u)
      ∧ (∃ pa u, locate .read false .word (indexAddr (pointing 0x10000000) 1 (0 : BitVec 4) .word)
        (pointing 0x10000000) = .ok (.device pa) u)
      ∧ ∃ u, locate .read false .word (indexAddr (pointing 0x20000000) 1 (0 : BitVec 4) .word)
        (pointing 0x20000000) = .ok .openBus u :=
  ⟨⟨_, _, _, rfl⟩, ⟨_, _, rfl⟩, ⟨_, rfl⟩⟩

/-- A word store to memory, to a device and to an open bus; the last byte of the word. -/
theorem witness_StoreInstructions :
    (∃ l c u, locate .write false .word (indexAddr (pointing 0x1000) 1 (0 : BitVec 4) .word)
        (pointing 0x1000) = .ok (.storage l c) u)
      ∧ (∃ pa u, locate .write false .word (indexAddr (pointing 0x10000000) 1 (0 : BitVec 4) .word)
        (pointing 0x10000000) = .ok (.device pa) u)
      ∧ (∃ u, locate .write false .word (indexAddr (pointing 0x20000000) 1 (0 : BitVec 4) .word)
        (pointing 0x20000000) = .ok .openBus u)
      ∧ 3 < sizeBytes .word :=
  ⟨⟨_, _, _, rfl⟩, ⟨_, _, rfl⟩, ⟨_, rfl⟩, by decide⟩

/-- A word at an address ending in 2, a halfword at an odd one; an aligned access that raises. -/
theorem witness_MisalignedAccessRaises :
    (indexAddr (pointing 2) 1 (0 : BitVec 4) .word).toNat % 4 ≠ 0
      ∧ (indexAddr (pointing 3) 1 (1 : BitVec 3) .half).toNat % 2 ≠ 0
      ∧ (AccessKind.write ≠ .fetch ∧ (0x1001 : Word).toNat % sizeBytes .half ≠ 0)
      ∧ (0x40000000 : Word).toNat % sizeBytes .word = 0
      ∧ ∃ u, locate .read false .word 0x40000000 mapped = .raise 0x10 u :=
  ⟨by decide, by decide, by decide, by decide, ⟨_, rfl⟩⟩

/-- Misaligned, and outside the platform; reading and writing. -/
theorem witness_FaultingAccessChangesNothing :
    (∃ u, locate .read false .word (indexAddr (pointing 2) 1 (0 : BitVec 4) .word) (pointing 2) = .raise 0x20 u)
      ∧ (∃ u, locate .read false .word (indexAddr (pointing 0x40000000) 1 (0 : BitVec 4) .word)
        (pointing 0x40000000) = .raise 0x10 u)
      ∧ (∃ u, locate .write false .word (indexAddr (pointing 2) 1 (0 : BitVec 4) .word) (pointing 2)
        = .raise 0x20 u)
      ∧ (∃ u, locate .write false .word (indexAddr (pointing 0x40000000) 1 (0 : BitVec 4) .word)
        (pointing 0x40000000) = .raise 0x10 u)
      ∧ (∃ u, locate .read false .word (counterAddr 1 0 (pointing 2)) (pointing 2) = .raise 0x20 u)
      ∧ ∃ u, locate .write false .word (counterAddr 1 0 (pointing 0x40000000)) (pointing 0x40000000)
        = .raise 0x10 u :=
  ⟨⟨_, rfl⟩, ⟨_, rfl⟩, ⟨_, rfl⟩, ⟨_, rfl⟩, ⟨_, rfl⟩, ⟨_, rfl⟩⟩

theorem witness_AutoIncrementInstructions :
    let ea := fun s : State => readReg s 1 + (s.spr.cr0.extractLsb' 0 12).setWidth 32
    (∃ g u, locate .read false .word (ea (pointing 0x1000)) (pointing 0x1000) = .ok g u)
      ∧ (∃ l c u, locate .write false .word (ea (pointing 0x1000)) (pointing 0x1000) = .ok (.storage l c) u)
      ∧ (∃ pa u, locate .write false .word (ea (pointing 0x10000000)) (pointing 0x10000000) = .ok (.device pa) u)
      ∧ ∃ u, locate .write false .word (ea (pointing 0x20000000)) (pointing 0x20000000) = .ok .openBus u :=
  ⟨⟨_, _, rfl⟩, ⟨_, _, _, rfl⟩, ⟨_, _, rfl⟩, ⟨_, rfl⟩⟩

/-- Modes 0, 1, 4 and 5, the last two with the smallest and the largest mask, and with one of other bits. -/
theorem witness_CounterStepModes :
    let inc := fun cr : Word => cr.toNat / 2 ^ 24 % 16
    let mode := fun cr : Word => cr.toNat / 2 ^ 28
    let mask := fun cr : Word => cr.toNat / 4096 % 4096
    (inc 0 = 0 ∧ mode 0 = 0) ∧ (inc 0x10000000 = 0 ∧ mode 0x10000000 = 1)
      ∧ (inc 0x40000000 = 0 ∧ mode 0x40000000 = 4 ∧ mask 0x40000000 = 2 ^ 0 - 1)
      ∧ (inc 0x50FFF000 = 0 ∧ mode 0x50FFF000 = 5 ∧ mask 0x50FFF000 = 2 ^ 12 - 1 ∧ 12 ≤ 12)
      ∧ (inc 0x400F4000 = 0 ∧ mode 0x400F4000 = 4 ∧ mask 0x400F4000 = 0x0F4)
      ∧ (inc 0x50A04000 = 0 ∧ mode 0x50A04000 = 5 ∧ mask 0x50A04000 = 0xA04) := by decide

/-- The whole list, in supervisor mode and in user mode; and the empty list. -/
theorem witness_PushStoresWords :
    PlainStack (isUser base) (readSp base - 4 * BitVec.ofNat 32 (listBits 0xFF).length)
        (listBits 0xFF).length base
      ∧ PlainStack (isUser (user base)) (readSp (user base) - 4 * BitVec.ofNat 32 (listBits 0xFF).length)
        (listBits 0xFF).length (user base)
      ∧ PlainStack (isUser base) (readSp base - 4 * BitVec.ofNat 32 (listBits 0).length)
        (listBits 0).length base :=
  ⟨plainStack_of _ _ _ _ (by decide) (by decide), plainStack_of _ _ _ _ (by decide) (by decide),
    plainStack_of _ _ _ _ (by decide) (by decide)⟩

/-- A push that completes, and one whose word is outside the platform. -/
theorem witness_PushCompletesOrRestarts :
    (∃ u, pushWords (readSp base) ((listBits 1).reverse.map fun b => readReg base (0#1 ++ b)) base = .ok () u)
      ∧ ∃ u, pushWords (readSp (ssp 0x40000000 base))
        ((listBits 1).reverse.map fun b => readReg (ssp 0x40000000 base) (0#1 ++ b)) (ssp 0x40000000 base)
        = .raise 0x10 u :=
  ⟨⟨_, rfl⟩, ⟨_, rfl⟩⟩

/-- Plain RAM in both modes; a pop from a device; one whose word is outside the platform. -/
theorem witness_PopLoadsRegisters :
    PlainStack (isUser base) (readSp base) (listBits 0xFF).length base
      ∧ PlainStack (isUser (user base)) (readSp (user base)) (listBits 0xFF).length (user base)
      ∧ (∃ ws u, popWords (readSp (ssp 0x10000000 mapped)) (listBits 1).length (ssp 0x10000000 mapped) = .ok ws u)
      ∧ ∃ u, popWords (readSp (ssp 0x40000000 base)) (listBits 1).length (ssp 0x40000000 base) = .raise 0x10 u :=
  ⟨plainStack_of _ _ _ _ (by decide) (by decide), plainStack_of _ _ _ _ (by decide) (by decide),
    ⟨_, _, rfl⟩, ⟨_, rfl⟩⟩

/-- Supervisor mode with the whole list; user mode with the list but SR; SR popped from a device; PC and
SR from outside the platform. -/
theorem witness_PopLoadsSpecialRegisters :
    (PlainStack (isUser base) (readSp base) (listBits 0xFF).length base ∧ isUser base = false)
      ∧ (PlainStack (isUser (user base)) (readSp (user base)) (listBits 0x7F).length (user base)
        ∧ (0x7F : BitVec 8).getLsbD 7 = false)
      ∧ (∃ ws u, popWords (readSp (ssp 0x10000000 mapped)) (listBits 0x80).length (ssp 0x10000000 mapped)
        = .ok ws u)
      ∧ ∃ u, popWords (readSp (ssp 0x40000000 base)) (listBits 0xC0).length (ssp 0x40000000 base)
        = .raise 0x10 u :=
  ⟨⟨plainStack_of _ _ _ _ (by decide) (by decide), by decide⟩,
    ⟨plainStack_of _ _ _ _ (by decide) (by decide), by decide⟩, ⟨_, _, rfl⟩, ⟨_, rfl⟩⟩

/-- A relocatable vector and a fixed one. -/
theorem witness_ExceptionEntryEffect :
    PlainStack false (base.spr.ssp - 8) 2 base
      ∧ (PlainRam false (vectorAddr 0x20 base) base ∧ (vectorAddr 0x20 base).extractLsb' 0 2 = 0
        ∧ (0x20 : Word) ∉ base.cfg.fixedVectors)
      ∧ (PlainRam false (vectorAddr 0x10 base) base ∧ (vectorAddr 0x10 base).extractLsb' 0 2 = 0
        ∧ (0x10 : Word) ∈ base.cfg.fixedVectors) :=
  ⟨plainStack_base, ⟨plainRam_vector _ (.inr (.inr (.inr (by decide)))), by decide, by decide⟩,
    ⟨plainRam_vector _ (.inr (.inr (.inl (by decide)))), by decide, by decide⟩⟩

/-- The vectors relocated to `v`, a TLB with no valid entry, translation on in the third bank. -/
def relocated (v : Word) : State :=
  { base with
    cfg := { base.cfg with tlbConfig := .unified }
    scp := { base.scp with vectorBase := v, memoryBank := 0x800 } }

/-- An entry that fails and whose Double Fault does not, and one whose Double Fault fails too; the vector
where nothing answers, and where the TLB has no entry; SSP one word above memory's end, and beyond it. -/
theorem witness_DoubleFaultAndLockup :
    (∃ u h w, entryAccesses (SR.toWord base.cfg.srLayout base.sr) 0x100 (vectorAddr 0x44 (relocated 0x20000000))
        (relocated 0x20000000) = .raise 0x10 u
      ∧ entryAccesses (SR.toWord base.cfg.srLayout base.sr) 0x100 0x0C u = .ok h w)
    ∧ (∃ u w, entryAccesses (SR.toWord base.cfg.srLayout base.sr) 0x100 0x44 (ssp 0x40000000 base) = .raise 0x10 u
      ∧ entryAccesses (SR.toWord base.cfg.srLayout base.sr) 0x100 0x0C u = .raise 0x10 w)
    ∧ (PlainStack false ((relocated 0).spr.ssp - 8) 2 (relocated 0) ∧ PlainRam false 0x0C (relocated 0)
      ∧ (vectorAddr 0x44 (relocated 0x20000000)).extractLsb' 0 2 = 0)
    ∧ NoMemoryAt (vectorAddr 0x44 (relocated 0x20000000)) (relocated 0x20000000)
    ∧ TlbMissAt (vectorAddr 0x44 (relocated 0x40000000)) (relocated 0x40000000)
    ∧ (PlainRam false ((ssp 4 base).spr.ssp - 4) (ssp 4 base) ∧ NoMemoryAt ((ssp 4 base).spr.ssp - 8) (ssp 4 base))
    ∧ ((ssp 0x40000000 base).spr.ssp.extractLsb' 0 2 = 0
      ∧ NoMemoryAt ((ssp 0x40000000 base).spr.ssp - 4) (ssp 0x40000000 base)) :=
  ⟨⟨_, _, _, rfl, rfl⟩, ⟨_, _, rfl, rfl⟩,
    ⟨plainStack_of _ _ _ _ (by decide) (by decide),
      plainRam_of _ _ _ (by decide) (by decide) (by decide) (by decide) (by decide), by decide⟩,
    ⟨by decide, .inl (by decide), by decide, by decide⟩, ⟨by decide, by decide, by decide, by decide⟩,
    ⟨plainRam_of _ _ _ (by decide) (by decide) (by decide) (by decide) (by decide),
      ⟨by decide, .inl (by decide), by decide, by decide⟩⟩,
    by decide, ⟨by decide, .inl (by decide), by decide, by decide⟩⟩

theorem witness_SwiThenReturnRestores :
    SrLayout.wf base.cfg.srLayout = true ∧ base.sr.modeLo = false ∧ PlainStack false (base.spr.ssp - 8) 2 base
      ∧ PlainRam false (vectorAddr (0x40 + 4 * (1 : BitVec 4).setWidth 32) base) base
      ∧ (vectorAddr (0x40 + 4 * (1 : BitVec 4).setWidth 32) base).extractLsb' 0 2 = 0 :=
  ⟨by decide, by decide, plainStack_base, plainRam_vector _ (.inl (by decide)), by decide⟩

theorem witness_SoftwareInterrupt :
    PlainStack false (base.spr.ssp - 8) 2 base
      ∧ PlainRam false (vectorAddr (BitVec.ofNat 32 (0x40 + 4 * (1 : BitVec 4).toNat)) base) base
      ∧ (vectorAddr (BitVec.ofNat 32 (0x40 + 4 * (1 : BitVec 4).toNat)) base).extractLsb' 0 2 = 0 :=
  ⟨plainStack_base, plainRam_vector _ (.inl (by decide)), by decide⟩

theorem witness_ReservedEncodings :
    base.cfg.udiMode = .raise ∧ ({ base.cfg with udiMode := .nop } : Params).udiMode = .nop
      ∧ (prefixed 1 5 base).sr.e = true ∧ PlainStack false (base.spr.ssp - 8) 2 base
      ∧ PlainRam false (vectorAddr 0x38 base) base ∧ (vectorAddr 0x38 base).extractLsb' 0 2 = 0 :=
  ⟨by decide, by decide, by decide, plainStack_base, plainRam_vector _ (.inr (.inl (by decide))), by decide⟩

theorem witness_UnimplementedDspInstructions :
    let s := { prefixed 1 5 base with cfg := { base.cfg with dspExt := false } }
    s.cfg.dspExt = false ∧ s.sr.e = true := by decide

/-- A sub-bank that gives user mode the first 64 KB: size mask 0x00F, so va[15:12] is free. -/
def userBank : SubBank where
  valid := true
  ar := true
  cc := 3
  base := 0
  size := 0x00F

/-- The start state with that sub-bank in the first register set, the others not valid. -/
def subBanked : State :=
  { mapped with scp := { mapped.scp with subBanks := (Vector.replicate 8 userBank).mapIdx fun i b =>
      if i = 0 then b else { b with valid := false } } }

/-- Misaligned; by the bank and by one sub-bank; without the right and with it; each answer of the
platform. -/
theorem witness_UntranslatedAccess :
    ((AccessKind.read ≠ .fetch) ∧ (0x1001 : Word).toNat % sizeBytes .half ≠ 0)
      ∧ (spmHits mapped 0x1000 = [] ∧ (bankNibble mapped 0x1000).getLsbD 3 = false
        ∧ (0x1000 : Word).toNat % sizeBytes .word = 0
        ∧ (∀ b ∈ mapped.scp.subBanks.toList, subBankMatches 0x1000 b = false)
        ∧ false = (bankNibble mapped 0x1000).getLsbD 2 ∧ 0 = (bankNibble mapped 0x1000).extractLsb' 0 2)
      ∧ (spmHits subBanked 0xF000 = [] ∧ subBanked.scp.subBanks.toList.filter (subBankMatches 0xF000)
        = [userBank])
      ∧ subBanked.scp.subBanks.toList.filter (subBankMatches 0x10000) = []
      ∧ regionAt mapped.cfg.platform 0xFFFFF = some .ram
      ∧ regionAt mapped.cfg.platform 0x10000FFF = some .device
      ∧ regionAt mapped.cfg.platform 0x20000000 = some .openBus
      ∧ regionAt mapped.cfg.platform 0x100000 = none := by decide +kernel

/-- A separated TLB with one data entry: page 0x20002 on page `ppn`, with the property bits `p`. -/
def translated (p : Word) (ppn : BitVec 20) : State :=
  { mapped with
    cfg := { mapped.cfg with tlbConfig := .separated128 }
    scp := { mapped.scp with
      memoryBank := 0x80
      tlb := mapped.scp.tlb.set 130 { vword := 0x20000000 ||| p, ppn := ppn } } }

/-- A miss; a hit that is read-only; a hit without the user right; a hit with everything, to memory, to a
device, to an open bus and to nothing. -/
theorem witness_TranslatedAccess :
    let s := translated 0x145 1
    ((0x20002010 : Word).toNat % sizeBytes .word = 0 ∧ spmHits s 0x20002010 = []
      ∧ (bankNibble s 0x20002010).getLsbD 3 = true ∧ s.cfg.tlbConfig ≠ .none)
    ∧ tlbHits s .read 0x20003010 = []
    ∧ (tlbHits (translated 0x85 1) .write 0x20002010 = [130]
      ∧ (readTlb (translated 0x85 1) 130).vword.getLsbD 6 = false)
    ∧ (tlbHits (translated 0xC1 1) .read 0x20002010 = [130]
      ∧ (readTlb (translated 0xC1 1) 130).vword.getLsbD 2 = false)
    ∧ (tlbHits (translated 0xC5 1) .write 0x20002010 = [130]
      ∧ (readTlb (translated 0xC5 1) 130).vword.getLsbD 6 = true
      ∧ (readTlb (translated 0xC5 1) 130).vword.getLsbD 2 = true
      ∧ (0x1010 : Word).toNat = (1 : BitVec 20).toNat * 4096 + (0x20002010 : Word).toNat % 4096
      ∧ regionAt mapped.cfg.platform 0x1010 = some .ram)
    ∧ (tlbHits (translated 0xC5 0x10000) .read 0x20002010 = [130]
      ∧ regionAt mapped.cfg.platform 0x10000010 = some .device)
    ∧ (tlbHits (translated 0xC5 0x20000) .read 0x20002010 = [130]
      ∧ regionAt mapped.cfg.platform 0x20000010 = some .openBus)
    ∧ (tlbHits (translated 0xC5 0x40000) .read 0x20002010 = [130]
      ∧ regionAt mapped.cfg.platform 0x40000010 = none) := by decide

/-- Data scratch-pad region 1 at 0x8000 to 0x83FF, with the privilege field `p`. -/
def padded (p : BitVec 4) : State :=
  { mapped with scp := { mapped.scp with spm := { mapped.scp.spm with
      dConfig := 2
      dEnable := 1
      dBanks := mapped.scp.spm.dBanks.set 1 { privilege := p, enable := 1, start := 0x8000, last := 0x83FF } } } }

/-- The first and the last byte of the region, with the privilege and without. -/
theorem witness_ScratchPadAccess :
    let h := fun p : BitVec 4 => ({ space := .dspm, bank := 1
                                    regs := { privilege := p, enable := 1, start := 0x8000, last := 0x83FF }
                                    config := 2, sizeCode := 2 } : SpmHit)
    spmHits (padded 1) 0x8000 = [h 1] ∧ spmHits (padded 1) 0x83FF = [h 1] ∧ spmHits (padded 0) 0x8000 = [h 0]
      ∧ spmHits (padded 1) 0x8400 = [] ∧ (h 1).regs.privilege = 1 ∧ (h 0).regs.privilege ≠ 1
      ∧ (h 1).regs.last.toNat - (h 1).regs.start.toNat < 1024 * 2 ^ (h 1).sizeCode.toNat
      ∧ (0x8000 : Word).toNat % sizeBytes .word = 0 ∧ (0x83FF : Word).toNat % sizeBytes .byte = 0 := by decide

/-- The command word for address 0x1234 in register 0; nothing stale; an uncached store and its SYNC, seen
from a fetch with its cache off. -/
theorem witness_MaintainedCodeIsFetched :
    isUser base = false ∧ readReg (regs [(0, 0x1235)] base) 0 = 0x1234 &&& 0xFFFFFFF0 ||| 5
      ∧ (∀ e ∈ base.stale, e.loc ≠ busLoc 0x100)
      ∧ (let s := syncStale (storeAt .half (busLoc 0x100) 0 0xB801 base)
        s.stale.length = 1 ∧ (0 : BitVec 2).getLsbD 1 = false
          ∧ ∀ e ∈ s.stale, e.loc = busLoc 0x100 ∧ e.synced = true ∧ e.uncached = true) := by decide

/-- A reserved register, and one that is not SCPR11; the access point on any index; a read-only index and an
unknown one. -/
theorem witness_SystemCoprocessorMoves :
    isUser base = false ∧ (14 : BitVec 4) ∈ [0, 1, 2, 10, 13, 14] ∧ (12 : BitVec 4) ≠ 11
      ∧ ∀ index : Word, isUser { base with scp := { base.scp with gapIndex := index } } = false :=
  ⟨by decide, by decide, by decide, fun _ => rfl⟩

theorem witness_SystemCoprocessorMoves_indexes : ∀ index ∈ [0x000#32, 0x707], index ≠ 0x302 ∧ index ≠ 0x700
    ∧ ∀ n : BitVec 2, ∀ k ∈ [0x701#32, 0x702, 0x703, 0x704, 0x705, 0x706],
      index ≠ k + 16 * n.setWidth 32 := by
  intro index hi
  simp only [List.mem_cons, List.not_mem_nil, or_false] at hi
  refine ⟨by rcases hi with rfl | rfl <;> decide, by rcases hi with rfl | rfl <;> decide, fun n k hk => ?_⟩
  have hn : n = 0 ∨ n = 1 ∨ n = 2 ∨ n = 3 := by revert n; decide
  simp only [List.mem_cons, List.not_mem_nil, or_false] at hk
  rcases hi with rfl | rfl <;> rcases hn with rfl | rfl | rfl | rfl <;>
    rcases hk with rfl | rfl | rfl | rfl | rfl | rfl <;> decide

/-- Supervisor mode with the access point on Backup IR, on the last data bank's end address. -/
theorem witness_SystemRegistersReadBack :
    isUser base = false ∧ base.scp.gapIndex = 0x000
      ∧ ({ base.scp with gapIndex := 0x736 } : Scp).gapIndex = 0x706 + 16 * (3 : BitVec 2).setWidth 32 := by decide

/-- Coprocessor 0 in user mode and in supervisor mode; an absent one; a supervisor-only one in user mode. -/
theorem witness_CoprocessorUnavailable :
    isUser (user base) = true ∧ isUser base = false ∧ (coproc base 1).present = false
      ∧ (coproc { user base with cp2 := { attached with supervisorOnly := true } } 2).supervisorOnly = true := by
  decide

/-- An attached coprocessor in either mode; a status bit clear and one set; its loads and stores where they
pass and where they raise. -/
theorem witness_AttachedCoprocessors :
    let s := { pointing 0x1000 with cp1 := attached }
    let d := { pointing 0x10000000 with cp1 := attached }
    let x := { ssp 0x40000000 mapped with cp1 := attached }
    ((1 : BitVec 2) ≠ 0 ∧ (coproc s 1).present = true ∧ isUser s = false
      ∧ (coproc (user s) 1).supervisorOnly = false ∧ (coproc s 1).held.status.getLsbD 0 = false
      ∧ (coproc s 1).held.status.getLsbD 3 = true)
    ∧ (∃ g u, locate .read (isUser s) .word (readReg s 1 + erImm s) s = .ok g u)
    ∧ (∃ off u, locate .read (isUser x) .word (readSp x + erImm x) x = .raise off u)
    ∧ (∃ l c u, locate .write (isUser s) .word (readReg s 1 + erImm s) s = .ok (.storage l c) u)
    ∧ (∃ pa u, locate .write (isUser d) .word (readReg d 1 + erImm d) d = .ok (.device pa) u)
    ∧ ∃ off u, locate .write (isUser x) .word (readSp x + erImm x) x = .raise off u :=
  ⟨by decide, ⟨_, _, rfl⟩, ⟨_, _, rfl⟩, ⟨_, _, _, rfl⟩, ⟨_, _, rfl⟩, ⟨_, _, rfl⟩⟩

theorem witness_NopSyncHalt :
    isUser base = false ∧ (prefixed 1 5 base).sr.e = true ∧ (0 : BitVec 4) ≠ 1 ∧ (2 : BitVec 4) ≠ 1 := by decide

theorem witness_SetAndClearBits :
    base.cfg.srLayout = defaultSrLayout ∧ isUser base = false
      ∧ (isUser (user base) = true ∧ (7 : BitVec 4) ∈ ([0, 1, 2, 3, 4, 5, 6, 7, 10, 11] : List (BitVec 4))) := by
  decide

/-- The INT bit and a list with SR in user mode, under the three values of `UserSysWrite`. -/
theorem witness_UserSystemBits :
    isUser (user base) = true ∧ isSystemField (srFieldAt (user base).cfg.srLayout 13) = true
      ∧ (0x80 : BitVec 8).getLsbD 7 = true ∧ (user base).cfg.userSysWrite = .privilegeViolation
      ∧ ({ base.cfg with userSysWrite := .refuse } : Params).userSysWrite = .refuse
      ∧ ({ base.cfg with userSysWrite := .ignore } : Params).userSysWrite = .ignore
      ∧ PlainStack true (readSp (user base)) (listBits 0x80).length (user base) :=
  ⟨by decide, by decide, by decide, by decide, by decide, by decide,
    plainStack_of _ _ _ _ (by decide) (by decide)⟩

theorem witness_StoppedInstructions :
    (1 : BitVec 4) ≠ 0 ∧ base.cfg.dspExt = true ∧ (prefixed 1 5 base).sr.e = true := by decide

/-- The start state with functions supplied for some DSP instructions. -/
def supplied : State := { base with cfg := { base.cfg with dspSupplied := [.saddb, .upkls, .upk3hb, .ror, .abs] } }

/-- With the default and with a supplied function. -/
theorem witness_LaneArithmetic : base.cfg.dspExt = true ∧ 3 < 4 ∧ 1 < 2 ∧ .saddb ∉ base.cfg.dspSupplied
    ∧ supplied.cfg.dspExt = true ∧ .saddb ∈ supplied.cfg.dspSupplied := by decide

theorem witness_UnpackInstructions : base.cfg.dspExt = true ∧ .upkls ∉ base.cfg.dspSupplied
    ∧ .upk3hb ∉ base.cfg.dspSupplied ∧ supplied.cfg.dspExt = true ∧ .upkls ∈ supplied.cfg.dspSupplied
    ∧ .upk3hb ∈ supplied.cfg.dspSupplied := by decide

/-- Unprefixed; an operand of ABS that is the most negative number but one. -/
theorem witness_RotateMinMaxAbs :
    base.cfg.dspExt = true ∧ base.sr.e = false ∧ (0x80000001 : Word).toInt ≠ -2 ^ 31
      ∧ .ror ∉ base.cfg.dspSupplied ∧ .abs ∉ base.cfg.dspSupplied
      ∧ (supplied.cfg.dspExt = true ∧ supplied.sr.e = false ∧ .ror ∈ supplied.cfg.dspSupplied
        ∧ .abs ∈ supplied.cfg.dspSupplied) := by decide

theorem witness_OpenDspAndMreMoves : base.cfg.dspExt = true ∧ base.sr.e = false := by decide

/-- One boundary with a request. -/
def requested (nmi int : Bool) (number : Word) (s : State) : State :=
  { s with env := { s.env with boundaries :=
    [{ resetReq := false, nmiPending := nmi, intPending := int, intcNumber := number }] } }

/-- Lockup; a reserved mode; an NMI; INT at its fixed vector and at the first, the last and the numbers next
to the controller's range; halted with nothing to take. -/
theorem witness_BoundaryEvents :
    let on := fun (nmi int vi : Bool) => { base with sr := { base.sr with nmi := nmi, int := int, vi := vi } }
    (base.sr.e = false ∧ (requestNow base).resetReq = false ∧ base.lockup = false ∧ base.sr.modeLo = false)
    ∧ ({ base with lockup := true } : State).lockup = true
    ∧ ({ base.sr with modeLo := true } : SR).modeLo = true
    ∧ ((requestNow (requested true false 0 (on true false false))).nmiPending = true
      ∧ (on true false false).sr.nmi = true ∧ (on true false false).sr.l = false)
    ∧ ((requestNow (requested true true 0 (on false true false))).intPending = true
      ∧ (on false true false).sr.nmi = false ∧ (on false true false).sr.int = true
      ∧ (on false true false).sr.l = false ∧ (on false true false).sr.vi = false)
    ∧ ((on false true true).sr.vi = true ∧ 0x20 ≤ (0x20 : Word).toNat ∧ (0x20 : Word).toNat ≤ 0xFF
      ∧ 0x20 ≤ (0xFF : Word).toNat ∧ (0xFF : Word).toNat ≤ 0xFF)
    ∧ (requestNow (requested false true 0x20 (on false true true))).intcNumber = 0x20
    ∧ (requestNow (requested false true 0xFF (on false true true))).intcNumber = 0xFF
    ∧ ((requestNow (requested false true 0x1F (on false true true))).intcNumber = 0x1F
      ∧ (0x1F : Word).toNat < 0x20)
    ∧ ((requestNow (requested false true 0x100 (on false true true))).intcNumber = 0x100
      ∧ 0xFF < (0x100 : Word).toNat)
    ∧ ((requestNow { base with halted := true }).nmiPending = false
      ∧ (requestNow { base with halted := true }).intPending = false
      ∧ ({ base with halted := true } : State).halted = true) :=
  ⟨by decide, rfl, rfl, ⟨rfl, rfl, rfl⟩, ⟨rfl, rfl, rfl, rfl, rfl⟩, by decide, rfl, rfl, ⟨rfl, by decide⟩,
    ⟨rfl, by decide⟩, ⟨rfl, rfl, rfl⟩⟩

/-- A Reset with memory at address 0, one with none, one that finds a scratch-pad region there, and one in a
reserved mode. -/
theorem witness_ResetEventEffect :
    let s := resetRequested base
    let none := resetRequested { base with cfg := { base.cfg with platform := [] } }
    let pad := resetRequested { base with cfg := { base.cfg with spmReset := { defaultSpmRegs with
      dEnable := 1
      dBanks := (Vector.replicate 4 defaultSpmBank).set 0 { privilege := 0, enable := 1, start := 0, last := 0xFF } } } }
    (s.sr.e = false ∧ (requestNow s).resetReq = true ∧ s.cfg.spmReset.iEnable ≠ 1 ∧ s.cfg.spmReset.dEnable ≠ 1
      ∧ regionAt s.cfg.platform 0 = some .ram)
    ∧ regionAt none.cfg.platform 0 ≠ some .ram
    ∧ (let m := resetRequested { base with sr := { base.sr with modeLo := true } }
      m.sr.e = false ∧ (requestNow m).resetReq = true)
    ∧ (∃ u, locate .read false .word 0 (resetState (consumeBoundary s)) = .ok (.storage (busLoc 0) 0) u)
    ∧ ∃ u, locate .read false .word 0 (resetState (consumeBoundary pad))
      = .ok (.storage { space := .dspm, addr := 0 } 0) u :=
  ⟨by decide, by decide, by decide, ⟨_, rfl⟩, ⟨_, rfl⟩⟩

end Sys2Proof.Tests
end

/-! SUPPORT. The moves between a general register and a special one (41_move.md R310 to R317): how a halfword
`p ||| r` with a register in bits 3:0 decodes, and what a unit that only writes one register leaves. -/

namespace Sys2Proof

/-! ### A register in bits 3:0 -/

/-- The register in bits 3:0 is read back when the rest of the halfword leaves them clear. -/
theorem field_or_register {p : Half} (hp : field p 0 4 = 0) (r : BitVec 4) :
    field (p ||| r.setWidth 16) 0 4 = r := by
  have hr : field (r.setWidth 16) 0 4 = r := by
    apply field_eq
    rw [BitVec.toNat_setWidth_of_le (by decide)]
    omega
  calc field (p ||| r.setWidth 16) 0 4
      = field p 0 4 ||| field (r.setWidth 16) 0 4 := BitVec.extractLsb'_or
    _ = r := by rw [hp, hr]; exact BitVec.zero_or

/-- A register in bits 3:0 is not seen by the fields above it. -/
theorem field_or_register_above (p : Half) (r : BitVec 4) {lo : Nat} (n : Nat) (h : 4 ≤ lo) :
    field (p ||| r.setWidth 16) lo n = field p lo n := by
  have hr : field (r.setWidth 16) lo n = 0 := by
    apply field_eq
    have hlt : r.toNat < 2 ^ lo := r.isLt.trans_le (Nat.pow_le_pow_right two_pos h)
    rw [BitVec.toNat_setWidth_of_le (by decide), Nat.div_eq_of_lt hlt]
    simp
  calc field (p ||| r.setWidth 16) lo n
      = field p lo n ||| field (r.setWidth 16) lo n := BitVec.extractLsb'_or
    _ = field p lo n := by rw [hr]; exact BitVec.or_zero

/-- A row of `decodeE1` (bits 15:8 = 1110 0001) with a register in bits 3:0: the fields above choose the row,
and the instruction gets the register. -/
theorem decode_or_register {p : Half} {i : BitVec 4 → Instr} (hHi : field p 12 4 = 14) (hLo : field p 8 4 = 1)
    (hp : field p 0 4 = 0) (hRow : ∀ w, field w 4 4 = field p 4 4 → decodeE1 w = i (field w 0 4))
    (r : BitVec 4) : decode (p ||| r.setWidth 16) = i r := by
  have decode_toE1 : decode (p ||| r.setWidth 16) = decodeE1 (p ||| r.setWidth 16) := by
    simp [decode, decodeE, field_or_register_above, hHi, hLo]
  rw [decode_toE1, hRow _ (field_or_register_above p r 4 le_rfl), field_or_register hp]

end Sys2Proof

namespace Sys2Proof.Machine

open Sys2Proof.Safety

/-! ### Units that only write registers -/

theorem keepsFlags_retire {s u : State} (h : u.sr = s.sr) : KeepsFlags s (retire u) := by
  simp [KeepsFlags, h]

/-- An instruction that writes the special registers and retires writes them alone, and no flag. -/
theorem writesSpecial_of_exec {i : Instr} {s : State} {spr : Spr}
    (h : exec i s = .next (retire { s with spr := spr })) :
    ∃ t, exec i s = .next t ∧ WritesSpecial s t spr ∧ KeepsFlags s t :=
  ⟨_, h, writesSpecial_retire rfl (sameAround_spr s spr) rfl, keepsFlags_retire rfl⟩

/-- An instruction that writes one general register and retires writes it alone, and no flag. -/
theorem writesReg_of_exec {i : Instr} {s : State} {dst : Reg} {v : Word}
    (h : exec i s = .next (retire (writeReg s dst v))) :
    ∃ t, exec i s = .next t ∧ WritesReg s t dst v ∧ KeepsFlags s t :=
  ⟨_, h, writesReg_retire dst v rfl rfl (SameAround.refl s) rfl, keepsFlags_retire rfl⟩

/-! ### The moves -/

/-- Settles O15: each halfword is a row of `decodeE1` with its register in bits 3:0, and each move writes one
register and retires. -/
theorem specialRegisterMoves : Obligations.SpecialRegisterMoves := by
  unfold Obligations.SpecialRegisterMoves
  intro s r
  simp only [List.forall_mem_cons, List.not_mem_nil, IsEmpty.forall_iff, implies_true, and_true]
  refine ⟨?halfwords, ?toSpecial, ?toGeneral⟩
  case halfwords =>
    refine ⟨?_, ?_, ?_, ?_, ?_, ?_, ?_, ?_⟩ <;>
      exact decode_or_register (by decide) (by decide) (by decide) (fun w h => by rw [decodeE1, h]; rfl) r
  case toSpecial => exact ⟨writesSpecial_of_exec rfl, writesSpecial_of_exec rfl, writesSpecial_of_exec rfl,
    writesSpecial_of_exec rfl⟩
  case toGeneral => exact ⟨writesReg_of_exec rfl, writesReg_of_exec rfl, writesReg_of_exec rfl,
    writesReg_of_exec rfl⟩

end Sys2Proof.Machine

/-! SUPPORT. The register jumps (42_branch.md R348 to R350): how a row of `decodeE0` with a register in bits 3:0
decodes, and what a unit that ends in a jump leaves. -/

namespace Sys2Proof

/-! ### The rows of `decodeE0` with a register in bits 3:0 -/

theorem decode_of_E0 {w : Half} (hHi : field w 12 4 = 14) (hLo : field w 8 4 = 0) : decode w = decodeE0 w := by
  simp [decode, decodeE, hHi, hLo]

/-- A row of `decodeE0` (bits 15:8 = 1110 0000) with a register in bits 3:0: the fields above choose the row,
and the instruction gets the register. -/
theorem decode_or_register_E0 {p : Half} {i : BitVec 4 → Instr} (hHi : field p 12 4 = 14) (hLo : field p 8 4 = 0)
    (hp : field p 0 4 = 0) (hRow : ∀ w, field w 4 4 = field p 4 4 → decodeE0 w = i (field w 0 4))
    (r : BitVec 4) : decode (p ||| r.setWidth 16) = i r := by
  have row_above (lo : Nat) (h : 4 ≤ lo) : field (p ||| r.setWidth 16) lo 4 = field p lo 4 :=
    field_or_register_above p r 4 h
  calc decode (p ||| r.setWidth 16)
      = decodeE0 (p ||| r.setWidth 16) :=
        decode_of_E0 ((row_above 12 (by decide)).trans hHi) ((row_above 8 (by decide)).trans hLo)
    _ = i (field (p ||| r.setWidth 16) 0 4) := hRow _ (row_above 4 le_rfl)
    _ = i r := by rw [field_or_register hp]

end Sys2Proof

namespace Sys2Proof.Machine

open Sys2Proof.Safety

/-! ### Units that end in a jump -/

theorem exec_jr (src : Reg) (s : State) : exec (.jr src) s = .next (jumpTo (readReg s src) s) := rfl

theorem exec_jalr (src : Reg) (s : State) :
    exec (.jalr src) s = .next (jumpTo (readReg s src) (writeLr s (nextAddr s))) := rfl

/-- JPLR with the blank nibble that the spec gives it (30_encoding.md R215). -/
theorem exec_jplr_zero (s : State) : exec (.jplr 0) s = .next (jumpTo s.spr.lr s) := rfl

/-- A jump leaves around the unit what was left before it. -/
theorem keepsRest_jumpTo {s u : State} (target : Word) (h : SameAround s u) : KeepsRest s (jumpTo target u) :=
  h.keepsRest

/-- An instruction that writes the special registers and jumps changes them, pc, the count of LERIs and E
alone. -/
theorem jumps_of_exec {i : Instr} {s : State} {target : Word} {spr : Spr}
    (h : exec i s = .next (jumpTo target { s with spr := spr })) :
    ∃ t, exec i s = .next t ∧ t.pc = target &&& 0xFFFFFFFE ∧ t.spr = spr ∧ t.leris = 0
      ∧ t.sr = { s.sr with e := false } ∧ KeepsGprs s t [] ∧ KeepsRest s t :=
  ⟨_, h, jumpTo_pc _ _, jumpTo_spr _ _, jumpTo_leris _ _, jumpTo_sr _ _, keepsGprs_of_gpr (jumpTo_gpr _ _) [],
    keepsRest_jumpTo target (sameAround_spr s spr)⟩

/-! ### The register jumps -/

/-- Settles O26: each halfword is a row of `decodeE0`, and each instruction is one jump, which finds in the
special registers `s.spr` itself or `s.spr` with LR written. -/
theorem registerJumps : Obligations.RegisterJumps := by
  unfold Obligations.RegisterJumps
  intro s src
  simp only [List.forall_mem_cons, List.not_mem_nil, IsEmpty.forall_iff, implies_true, and_true]
  refine ⟨⟨?jrHalfword, ?jalrHalfword, ?jplrHalfword⟩, ?jr, ?jalr, ?jplr⟩
  case jrHalfword =>
    exact decode_or_register_E0 (by decide) (by decide) (by decide) (fun w h => by rw [decodeE0, h]; rfl) src
  case jalrHalfword =>
    exact decode_or_register_E0 (by decide) (by decide) (by decide) (fun w h => by rw [decodeE0, h]; rfl) src
  case jplrHalfword => decide
  case jr => exact jumps_of_exec (exec_jr src s)
  case jalr => exact jumps_of_exec (exec_jalr src s)
  case jplr => exact jumps_of_exec (exec_jplr_zero s)

end Sys2Proof.Machine

/-! SUPPORT. The decoder and the encoder (30_encoding.md R205 to R207). A row of the encoding is some fixed bits
with fields between them. Each shape of row has one lemma, which says that a halfword put together in that shape
decodes as the row that its fixed bits choose; the other direction takes a halfword to pieces group by group. -/

namespace Sys2Proof

open Machine (toNat_append toNat_extract)

theorem field_bit_eq_zero (w : Half) (lo : Nat) : field w lo 1 = 0 ↔ w.toNat / 2 ^ lo % 2 = 0 := by
  rw [← BitVec.toNat_inj, field_toNat]; rfl

theorem field_bit_eq_one (w : Half) (lo : Nat) : field w lo 1 = 1 ↔ w.toNat / 2 ^ lo % 2 = 1 := by
  rw [← BitVec.toNat_inj, field_toNat]; rfl

/-! ### A halfword put together from fixed bits and fields -/

theorem decode_nibbles {p : BitVec 4} {i : BitVec 4 → BitVec 4 → BitVec 4 → Instr}
    (hRow : ∀ w, field w 12 4 = p → decode w = i (field w 8 4) (field w 4 4) (field w 0 4)) (x y z : BitVec 4) :
    decode (p ++ x ++ y ++ z) = i x y z := by
  rw [hRow _ (field_eq _ _ _ _ (by simp only [toNat_append]; omega))]
  congr 1 <;> exact field_eq _ _ _ _ (by simp only [toNat_append]; omega)

theorem decode_nibble_bit_field {p : BitVec 4} {b : BitVec 1} {i : BitVec 4 → BitVec 3 → BitVec 4 → Instr}
    (hRow : ∀ w, field w 12 4 = p → field w 7 1 = b → decode w = i (field w 8 4) (field w 4 3) (field w 0 4))
    (x : BitVec 4) (y : BitVec 3) (z : BitVec 4) : decode (p ++ x ++ b ++ y ++ z) = i x y z := by
  rw [hRow _ (field_eq _ _ _ _ (by simp only [toNat_append]; omega))
    (field_eq _ _ _ _ (by simp only [toNat_append]; omega))]
  congr 1 <;> exact field_eq _ _ _ _ (by simp only [toNat_append]; omega)

theorem decode_nibble_bit_low7 {p : BitVec 4} {b : BitVec 1} {i : BitVec 4 → BitVec 7 → Instr}
    (hRow : ∀ w, field w 12 4 = p → field w 7 1 = b → decode w = i (field w 8 4) (field w 0 7))
    (x : BitVec 4) (y : BitVec 7) : decode (p ++ x ++ b ++ y) = i x y := by
  rw [hRow _ (field_eq _ _ _ _ (by simp only [toNat_append]; omega))
    (field_eq _ _ _ _ (by simp only [toNat_append]; omega))]
  congr 1 <;> exact field_eq _ _ _ _ (by simp only [toNat_append]; omega)

theorem decode_nibble_low8 {p : BitVec 4} {i : BitVec 4 → BitVec 8 → Instr}
    (hRow : ∀ w, field w 12 4 = p → decode w = i (field w 8 4) (field w 0 8)) (x : BitVec 4) (y : BitVec 8) :
    decode (p ++ x ++ y) = i x y := by
  rw [hRow _ (field_eq _ _ _ _ (by simp only [toNat_append]; omega))]
  congr 1 <;> exact field_eq _ _ _ _ (by simp only [toNat_append]; omega)

theorem decode_leri (imm : BitVec 14) : decode (0b01#2 ++ imm) = .leri imm := by
  have htop : (field (0b01#2 ++ imm) 12 4).toNat / 4 = 1 := by
    simp only [field_toNat, toNat_append, BitVec.toNat_ofNat]; omega
  unfold decode
  split
  case h_5 | h_6 | h_7 | h_8 => exact congrArg _ (field_eq _ _ _ _ (by simp only [toNat_append]; omega))
  case h_16 => simp only [imp_false] at *; omega
  all_goals omega

theorem decode_byte_low8 {p : BitVec 8} {i : BitVec 8 → Instr}
    (hRow : ∀ w, field w 12 4 = p.extractLsb' 4 4 → field w 8 4 = p.extractLsb' 0 4 → decode w = i (field w 0 8))
    (x : BitVec 8) : decode (p ++ x) = i x := by
  rw [hRow _ (field_eq _ _ _ _ (by simp only [toNat_append, toNat_extract]; omega))
    (field_eq _ _ _ _ (by simp only [toNat_append, toNat_extract]; omega))]
  congr 1; exact field_eq _ _ _ _ (by simp only [toNat_append]; omega)

theorem decode_byte_nibbles {p : BitVec 8} {i : BitVec 4 → BitVec 4 → Instr}
    (hRow : ∀ w, field w 12 4 = p.extractLsb' 4 4 → field w 8 4 = p.extractLsb' 0 4 →
      decode w = i (field w 4 4) (field w 0 4)) (x y : BitVec 4) : decode (p ++ x ++ y) = i x y := by
  rw [hRow _ (field_eq _ _ _ _ (by simp only [toNat_append, toNat_extract]; omega))
    (field_eq _ _ _ _ (by simp only [toNat_append, toNat_extract]; omega))]
  congr 1 <;> exact field_eq _ _ _ _ (by simp only [toNat_append]; omega)

theorem decode_byte_field_bit {p : BitVec 8} {b : BitVec 1} {i : BitVec 3 → BitVec 4 → Instr}
    (hRow : ∀ w, field w 12 4 = p.extractLsb' 4 4 → field w 8 4 = p.extractLsb' 0 4 → field w 4 1 = b →
      decode w = i (field w 5 3) (field w 0 4)) (x : BitVec 3) (y : BitVec 4) :
    decode (p ++ x ++ b ++ y) = i x y := by
  rw [hRow _ (field_eq _ _ _ _ (by simp only [toNat_append, toNat_extract]; omega))
    (field_eq _ _ _ _ (by simp only [toNat_append, toNat_extract]; omega))
    (field_eq _ _ _ _ (by simp only [toNat_append]; omega))]
  congr 1 <;> exact field_eq _ _ _ _ (by simp only [toNat_append]; omega)

theorem decode_nine_fields {p : BitVec 9} {i : BitVec 3 → BitVec 4 → Instr}
    (hRow : ∀ w, field w 12 4 = p.extractLsb' 5 4 → field w 8 4 = p.extractLsb' 1 4 →
      field w 7 1 = p.extractLsb' 0 1 → decode w = i (field w 4 3) (field w 0 4)) (x : BitVec 3) (y : BitVec 4) :
    decode (p ++ x ++ y) = i x y := by
  rw [hRow _ (field_eq _ _ _ _ (by simp only [toNat_append, toNat_extract]; omega))
    (field_eq _ _ _ _ (by simp only [toNat_append, toNat_extract]; omega))
    (field_eq _ _ _ _ (by simp only [toNat_append, toNat_extract]; omega))]
  congr 1 <;> exact field_eq _ _ _ _ (by simp only [toNat_append]; omega)

theorem decode_nine_counter {p : BitVec 9} {i : BitVec 2 → BitVec 1 → BitVec 4 → Instr}
    (hRow : ∀ w, field w 12 4 = p.extractLsb' 5 4 → field w 8 4 = p.extractLsb' 1 4 →
      field w 7 1 = p.extractLsb' 0 1 → decode w = i (field w 5 2) (field w 4 1) (field w 0 4))
    (x : BitVec 2) (y : BitVec 1) (z : BitVec 4) : decode (p ++ x ++ y ++ z) = i x y z := by
  rw [hRow _ (field_eq _ _ _ _ (by simp only [toNat_append, toNat_extract]; omega))
    (field_eq _ _ _ _ (by simp only [toNat_append, toNat_extract]; omega))
    (field_eq _ _ _ _ (by simp only [toNat_append, toNat_extract]; omega))]
  congr 1 <;> exact field_eq _ _ _ _ (by simp only [toNat_append]; omega)

theorem decode_nine_low7 {p : BitVec 9} {i : BitVec 7 → Instr}
    (hRow : ∀ w, field w 12 4 = p.extractLsb' 5 4 → field w 8 4 = p.extractLsb' 1 4 →
      field w 7 1 = p.extractLsb' 0 1 → decode w = i (field w 0 7)) (x : BitVec 7) :
    decode (p ++ x) = i x := by
  rw [hRow _ (field_eq _ _ _ _ (by simp only [toNat_append, toNat_extract]; omega))
    (field_eq _ _ _ _ (by simp only [toNat_append, toNat_extract]; omega))
    (field_eq _ _ _ _ (by simp only [toNat_append, toNat_extract]; omega))]
  congr 1; exact field_eq _ _ _ _ (by simp only [toNat_append]; omega)

theorem decode_nibble_shift_imm {p : BitVec 4} {b : BitVec 1} {k : BitVec 2} {i : BitVec 4 → BitVec 5 → Instr}
    (hRow : ∀ w, field w 12 4 = p → field w 7 1 = b → field w 0 2 = k → decode w = i (field w 8 4) (field w 2 5))
    (x : BitVec 4) (y : BitVec 5) : decode (p ++ x ++ b ++ y ++ k) = i x y := by
  rw [hRow _ (field_eq _ _ _ _ (by simp only [toNat_append]; omega))
    (field_eq _ _ _ _ (by simp only [toNat_append]; omega)) (field_eq _ _ _ _ (by simp only [toNat_append]; omega))]
  congr 1 <;> exact field_eq _ _ _ _ (by simp only [toNat_append]; omega)

theorem decode_nibble_shift_reg {p : BitVec 4} {b k : BitVec 2} {i : BitVec 4 → BitVec 4 → Instr}
    (hRow : ∀ w, field w 12 4 = p → field w 7 1 = b.extractLsb' 1 1 → field w 6 1 = b.extractLsb' 0 1 →
      field w 0 2 = k → decode w = i (field w 8 4) (field w 2 4)) (x y : BitVec 4) :
    decode (p ++ x ++ b ++ y ++ k) = i x y := by
  rw [hRow _ (field_eq _ _ _ _ (by simp only [toNat_append]; omega))
    (field_eq _ _ _ _ (by simp only [toNat_append, toNat_extract]; omega))
    (field_eq _ _ _ _ (by simp only [toNat_append, toNat_extract]; omega))
    (field_eq _ _ _ _ (by simp only [toNat_append]; omega))]
  congr 1 <;> exact field_eq _ _ _ _ (by simp only [toNat_append]; omega)

theorem decode_nibble_quick {p : BitVec 4} {b : BitVec 3} {i : BitVec 4 → BitVec 5 → Instr}
    (hRow : ∀ w, field w 12 4 = p → field w 7 1 = b.extractLsb' 2 1 → field w 6 1 = b.extractLsb' 1 1 →
      field w 5 1 = b.extractLsb' 0 1 → decode w = i (field w 8 4) (field w 0 5)) (x : BitVec 4) (y : BitVec 5) :
    decode (p ++ x ++ b ++ y) = i x y := by
  rw [hRow _ (field_eq _ _ _ _ (by simp only [toNat_append]; omega))
    (field_eq _ _ _ _ (by simp only [toNat_append, toNat_extract]; omega))
    (field_eq _ _ _ _ (by simp only [toNat_append, toNat_extract]; omega))
    (field_eq _ _ _ _ (by simp only [toNat_append, toNat_extract]; omega))]
  congr 1 <;> exact field_eq _ _ _ _ (by simp only [toNat_append]; omega)

theorem decode_twelve_low4 {p : BitVec 12} {i : BitVec 4 → Instr}
    (hRow : ∀ w, field w 12 4 = p.extractLsb' 8 4 → field w 8 4 = p.extractLsb' 4 4 →
      field w 4 4 = p.extractLsb' 0 4 → decode w = i (field w 0 4)) (x : BitVec 4) : decode (p ++ x) = i x := by
  rw [hRow _ (field_eq _ _ _ _ (by simp only [toNat_append, toNat_extract]; omega))
    (field_eq _ _ _ _ (by simp only [toNat_append, toNat_extract]; omega))
    (field_eq _ _ _ _ (by simp only [toNat_append, toNat_extract]; omega))]
  congr 1; exact field_eq _ _ _ _ (by simp only [toNat_append]; omega)

/-- The rows of 1111 1011, which `decodeFB` tells apart by single bits. -/
theorem decode_eq_decodeFB {w : Half} (h : w.toNat / 2 ^ 8 = 0xFB) : decode w = decodeFB w := by
  have h12 : field w 12 4 = 15 := field_eq _ _ _ _ (by simp; omega)
  have h8 : field w 8 4 = 11 := field_eq _ _ _ _ (by simp; omega)
  simp [decode, decodeF, h12, h8]

theorem decode_abs (dst : Reg) : decode (0b111110110000#12 ++ dst) = .abs dst := by
  rw [decode_eq_decodeFB (by simp only [toNat_append]; simp; omega)]
  have h7 : field (0b111110110000#12 ++ dst) 7 1 = 0 := field_eq _ _ _ _ (by simp only [toNat_append]; simp; omega)
  have h6 : field (0b111110110000#12 ++ dst) 6 1 = 0 := field_eq _ _ _ _ (by simp only [toNat_append]; simp; omega)
  have h5 : field (0b111110110000#12 ++ dst) 5 1 = 0 := field_eq _ _ _ _ (by simp only [toNat_append]; simp; omega)
  have h4 : field (0b111110110000#12 ++ dst) 4 1 = 0 := field_eq _ _ _ _ (by simp only [toNat_append]; simp; omega)
  have hrest : field (0b111110110000#12 ++ dst) 0 4 = dst := field_eq _ _ _ _ (by simp only [toNat_append]; omega)
  simp [decodeFB, h7, h6, h5, h4, hrest]

theorem decode_reservedFB40 (bits : BitVec 6) : decode (0b1111101101#10 ++ bits) = .reservedFB40 bits := by
  rw [decode_eq_decodeFB (by simp only [toNat_append]; simp; omega)]
  have h7 : field (0b1111101101#10 ++ bits) 7 1 = 0 := field_eq _ _ _ _ (by simp only [toNat_append]; simp; omega)
  have h6 : field (0b1111101101#10 ++ bits) 6 1 = 1 := field_eq _ _ _ _ (by simp only [toNat_append]; simp; omega)
  have hrest : field (0b1111101101#10 ++ bits) 0 6 = bits := field_eq _ _ _ _ (by simp only [toNat_append]; omega)
  simp [decodeFB, h7, h6, hrest]

theorem decode_reservedFB20 (bits : BitVec 5) : decode (0b11111011001#11 ++ bits) = .reservedFB20 bits := by
  rw [decode_eq_decodeFB (by simp only [toNat_append]; simp; omega)]
  have h7 : field (0b11111011001#11 ++ bits) 7 1 = 0 := field_eq _ _ _ _ (by simp only [toNat_append]; simp; omega)
  have h6 : field (0b11111011001#11 ++ bits) 6 1 = 0 := field_eq _ _ _ _ (by simp only [toNat_append]; simp; omega)
  have h5 : field (0b11111011001#11 ++ bits) 5 1 = 1 := field_eq _ _ _ _ (by simp only [toNat_append]; simp; omega)
  have hrest : field (0b11111011001#11 ++ bits) 0 5 = bits := field_eq _ _ _ _ (by simp only [toNat_append]; omega)
  simp [decodeFB, h7, h6, h5, hrest]

theorem decode_reservedFB10 (bits : BitVec 4) : decode (0b111110110001#12 ++ bits) = .reservedFB10 bits := by
  rw [decode_eq_decodeFB (by simp only [toNat_append]; simp; omega)]
  have h7 : field (0b111110110001#12 ++ bits) 7 1 = 0 := field_eq _ _ _ _ (by simp only [toNat_append]; simp; omega)
  have h6 : field (0b111110110001#12 ++ bits) 6 1 = 0 := field_eq _ _ _ _ (by simp only [toNat_append]; simp; omega)
  have h5 : field (0b111110110001#12 ++ bits) 5 1 = 0 := field_eq _ _ _ _ (by simp only [toNat_append]; simp; omega)
  have h4 : field (0b111110110001#12 ++ bits) 4 1 = 1 := field_eq _ _ _ _ (by simp only [toNat_append]; simp; omega)
  have hrest : field (0b111110110001#12 ++ bits) 0 4 = bits := field_eq _ _ _ _ (by simp only [toNat_append]; omega)
  simp [decodeFB, h7, h6, h5, h4, hrest]

/-- The rows of 1110 11, the coprocessors', whatever the coprocessor number in bits 9:8. -/
theorem decode_eq_decodeCoproc {w : Half} (h : w.toNat / 2 ^ 10 = 0b111011) : decode w = decodeCoproc w := by
  have h12 : field w 12 4 = 14 := field_eq _ _ _ _ (by simp; omega)
  have hE : decode w = decodeE w := by simp [decode, h12]
  have h8 : 12 ≤ (field w 8 4).toNat := by rw [field_toNat]; omega
  rw [hE]
  unfold decodeE
  split
  case h_13 => rfl
  all_goals omega

theorem decodeCoproc_low {w : Half} (h : (field w 4 4).toNat / 4 = 0) :
    decodeCoproc w = .cpcmd (field w 8 2) (field w 0 6) := by
  unfold decodeCoproc
  split
  case h_1 | h_2 | h_3 | h_4 => rfl
  case h_13 => simp only [imp_false] at *; omega
  all_goals omega

theorem decodeCoproc_high {w : Half} (h : (field w 4 4).toNat / 4 = 3) :
    decodeCoproc w = .reservedECC0 (field w 8 2) (field w 0 6) := by
  unfold decodeCoproc
  split
  case h_13 => rfl
  all_goals omega

theorem decode_coproc_nibbles {k : BitVec 4} {i : BitVec 2 → BitVec 4 → Instr}
    (hRow : ∀ w, field w 4 4 = k → decodeCoproc w = i (field w 8 2) (field w 0 4)) (x : BitVec 2) (y : BitVec 4) :
    decode (0b111011#6 ++ x ++ k ++ y) = i x y := by
  rw [decode_eq_decodeCoproc (by simp only [toNat_append]; simp; omega),
    hRow _ (field_eq _ _ _ _ (by simp only [toNat_append]; omega))]
  congr 1 <;> exact field_eq _ _ _ _ (by simp only [toNat_append]; omega)

theorem decode_coproc_low6 {k : BitVec 2} {i : BitVec 2 → BitVec 6 → Instr}
    (hRow : ∀ w, (field w 4 4).toNat / 4 = k.toNat → decodeCoproc w = i (field w 8 2) (field w 0 6))
    (x : BitVec 2) (y : BitVec 6) : decode (0b111011#6 ++ x ++ k ++ y) = i x y := by
  rw [decode_eq_decodeCoproc (by simp only [toNat_append]; simp; omega),
    hRow _ (by rw [field_toNat]; simp only [toNat_append]; omega)]
  congr 1 <;> exact field_eq _ _ _ _ (by simp only [toNat_append]; omega)

/-! ### Decoding an encoded instruction -/

/-- Settles O1: one case for each shape of row. -/
theorem decodeOfEncode : Obligations.DecodeOfEncode := by
  unfold Obligations.DecodeOfEncode
  intro i
  cases i
  case ldIdx | stIdx => exact decode_nibbles (fun w h => by simp [decode, h]) _ _ _
  case ldbIdx | ldsIdx | stbIdx | stsIdx | ldbuIdx | ldsuIdx =>
    exact decode_nibble_bit_field (fun w h hb => by simp [decode, h, hb]) _ _ _
  case leri imm => exact decode_leri imm
  case ldSp | stSp => exact decode_nibble_bit_low7 (fun w h hb => by simp [decode, h, hb]) _ _
  case ldi => exact decode_nibble_low8 (fun w h => by simp [decode, h]) _ _
  case pushLo | pushHi | pushSpec | popLo | popHi | popSpec | leaAspo =>
    exact decode_byte_low8 (fun w h h' => by simp [decode, decodeB, h, h']) _
  case jnv | jv | jp | jm | jnz | jz | jnc | jc | jgt | jlt | jge | jle | jhi | jls | jmp | jal =>
    exact decode_byte_low8 (fun w h h' => by simp [decode, decodeD, h, h']) _
  case mrs => exact decode_nine_fields (fun w h h' hb => by simp [decode, decodeB, h, h', hb]) _ _
  case ror | rol | ldbSp | ldsSp | ldbuSp | ldsuSp | stbSp | stsSp =>
    exact decode_nine_fields (fun w h h' hb => by simp [decode, decodeE, h, h', hb]) _ _
  case ldau | stau => exact decode_nine_counter (fun w h h' hb => by simp [decode, decodeE, h, h', hb]) _ _ _
  case reservedB780 => exact decode_nine_low7 (fun w h h' hb => by simp [decode, decodeB, h, h', hb]) _
  case add | adc | sub | sbc | and | or | xor | cmp =>
    exact decode_byte_nibbles (fun w h h' => by simp [decode, decodeB, h, h']) _ _
  case tst | lea | mac => exact decode_byte_nibbles (fun w h h' => by simp [decode, decodeE, h, h']) _ _
  case macb | macs | msopb | msops | saddb | sadds | sadub | sadus | sadd =>
    exact decode_byte_nibbles (fun w h h' => by simp [decode, decodeF, h, h']) _ _
  case avgb | avgs | mul | mulu =>
    exact decode_byte_field_bit (fun w h h' hb => by simp [decode, decodeE, h, h', hb]) _ _
  case upkls | upkhs | min | max | upk0lb | upk0hb | upk1lb | upk1hb | upk2lb | upk2hb | upk3lb | upk3hb =>
    exact decode_byte_field_bit (fun w h h' hb => by simp [decode, decodeF, h, h', hb]) _ _
  case asrImm | lsrImm | aslImm | sslImm =>
    exact decode_nibble_shift_imm (fun w h hb hk => by simp [decode, decodeC, h, hb, hk]) _ _
  case asrReg | lsrReg | aslReg | sslReg =>
    exact decode_nibble_shift_reg (fun w h hb hb' hk => by simp [decode, decodeC, h, hb, hb', hk]) _ _
  case addq | cmpq =>
    exact decode_nibble_quick (fun w h hb hb' hb'' => by simp [decode, decodeC, h, hb, hb', hb'']) _ _
  case extb | exts | mfmre | mtmre | cvb | cvs | neg | not | jr | jalr | jplr | nop | swi | step | halt | brkpt =>
    exact decode_twelve_low4 (fun w h h' h'' => by simp [decode, decodeE, decodeE0, h, h', h'']) _
  case cnt0 | cnt1 | set | clr | mtml | mtmh | mfml | mfmh | mtcr0 | mtcr1 | sync | reservedE1B0 | lsea | lesa
      | mfcr0 | mfcr1 =>
    exact decode_twelve_low4 (fun w h h' h'' => by simp [decode, decodeE, decodeE1, h, h', h'']) _
  case cpcmd => exact decode_coproc_low6 (k := 0b00#2) (fun w h => decodeCoproc_low h) _ _
  case reservedECC0 => exact decode_coproc_low6 (k := 0b11#2) (fun w h => decodeCoproc_high h) _ _
  case getc | execCp | mvtc | mvfc | ldcSp | ldcIdx | stcSp | stcIdx =>
    exact decode_coproc_nibbles (fun w h => by simp [decodeCoproc, h]) _ _
  case abs dst => exact decode_abs dst
  case reservedFB80 => exact decode_nine_low7 (fun w h h' hb => by simp [decode, decodeF, decodeFB, h, h', hb]) _
  case reservedFB40 bits => exact decode_reservedFB40 bits
  case reservedFB20 bits => exact decode_reservedFB20 bits
  case reservedFB10 bits => exact decode_reservedFB10 bits

/-! ### Encoding a decoded halfword -/

/-- A halfword is put together from the fields of an instruction when the numbers agree. -/
theorem encode_eq_of_toNat {i : Instr} {w : Half} (h : (encode i).toNat = w.toNat) : encode i = w :=
  BitVec.eq_of_toNat_eq h

theorem encode_decodeB (w : Half) (h : w.toNat / 2 ^ 12 = 11) : encode (decodeB w) = w := by
  apply encode_eq_of_toNat
  unfold decodeB
  split <;> try split
  all_goals simp only [encode, toNat_append, field_toNat, field_bit_eq_zero, BitVec.toNat_ofNat, imp_false] at *; omega

theorem encode_decodeC (w : Half) (h : w.toNat / 2 ^ 12 = 12) : encode (decodeC w) = w := by
  apply encode_eq_of_toNat
  unfold decodeC
  repeat' split
  all_goals simp only [encode, toNat_append, field_toNat, field_bit_eq_zero, BitVec.toNat_ofNat, imp_false] at *; omega

theorem encode_decodeD (w : Half) (h : w.toNat / 2 ^ 12 = 13) : encode (decodeD w) = w := by
  apply encode_eq_of_toNat
  unfold decodeD
  split
  all_goals simp only [encode, toNat_append, field_toNat, BitVec.toNat_ofNat, imp_false] at *; omega

theorem encode_decodeE0 (w : Half) (h : w.toNat / 2 ^ 8 = 0xE0) : encode (decodeE0 w) = w := by
  apply encode_eq_of_toNat
  unfold decodeE0
  split
  all_goals simp only [encode, toNat_append, field_toNat, BitVec.toNat_ofNat, imp_false] at *; omega

theorem encode_decodeE1 (w : Half) (h : w.toNat / 2 ^ 8 = 0xE1) : encode (decodeE1 w) = w := by
  apply encode_eq_of_toNat
  unfold decodeE1
  split
  all_goals simp only [encode, toNat_append, field_toNat, BitVec.toNat_ofNat, imp_false] at *; omega

theorem encode_decodeCoproc (w : Half) (h : w.toNat / 2 ^ 10 = 0b111011) : encode (decodeCoproc w) = w := by
  apply encode_eq_of_toNat
  unfold decodeCoproc
  split
  all_goals simp only [encode, toNat_append, field_toNat, BitVec.toNat_ofNat, imp_false] at *; omega

theorem encode_decodeE (w : Half) (h : w.toNat / 2 ^ 12 = 14) : encode (decodeE w) = w := by
  unfold decodeE
  split
  case h_1 h8 => exact encode_decodeE0 w (by rw [field_toNat] at h8; omega)
  case h_2 h8 => exact encode_decodeE1 w (by rw [field_toNat] at h8; omega)
  case h_13 => exact encode_decodeCoproc w (by simp only [field_toNat, imp_false] at *; omega)
  all_goals
    try split
    all_goals
      apply encode_eq_of_toNat
      simp only [encode, toNat_append, field_toNat, field_bit_eq_zero, BitVec.toNat_ofNat] at *
      omega

theorem encode_decodeFB (w : Half) (h : w.toNat / 2 ^ 8 = 0xFB) : encode (decodeFB w) = w := by
  apply encode_eq_of_toNat
  unfold decodeFB
  repeat' split
  all_goals simp only [encode, toNat_append, field_toNat, field_bit_eq_one, BitVec.toNat_ofNat] at *; omega

theorem encode_decodeF (w : Half) (h : w.toNat / 2 ^ 12 = 15) : encode (decodeF w) = w := by
  unfold decodeF
  split
  case h_12 h8 => exact encode_decodeFB w (by rw [field_toNat] at h8; omega)
  all_goals
    try split
    all_goals
      apply encode_eq_of_toNat
      simp only [encode, toNat_append, field_toNat, field_bit_eq_zero, BitVec.toNat_ofNat, imp_false] at *
      omega

/-- Settles O2: the groups of bits 15:12, each row of a group by the numbers of its fields. -/
theorem encodeOfDecode : Obligations.EncodeOfDecode := by
  unfold Obligations.EncodeOfDecode
  intro w
  unfold decode
  split
  case h_12 h12 => exact encode_decodeB w (by rw [field_toNat] at h12; omega)
  case h_13 h12 => exact encode_decodeC w (by rw [field_toNat] at h12; omega)
  case h_14 h12 => exact encode_decodeD w (by rw [field_toNat] at h12; omega)
  case h_15 h12 => exact encode_decodeE w (by rw [field_toNat] at h12; omega)
  case h_16 => exact encode_decodeF w (by simp only [field_toNat, imp_false] at *; omega)
  all_goals
    try split
    all_goals
      apply encode_eq_of_toNat
      simp only [encode, toNat_append, field_toNat, field_bit_eq_zero, BitVec.toNat_ofNat] at *
      omega

/-! ### Written words -/

/-- Settles O3: fifteen closed decodings. -/
theorem writtenWordsDecode : Obligations.WrittenWordsDecode := by
  unfold Obligations.WrittenWordsDecode
  refine ⟨?_, ?_, ?_, ?_, ?_, ?_, ?_, ?_, ?_, ?_, ?_, ?_, ?_, ?_, ?_⟩ <;> rfl

end Sys2Proof

/-! SUPPORT. What one step can do, said once (`step_next`): a Reset, a completed unit, or an exception entry. What a
part of an instruction may leave different is `Worked`; every meaning of `exec` is shown to end in a jump or a
retirement after such parts, or in an entry (`Ends`). The statements about every step follow from it. -/

namespace Sys2Proof.Machine

open Sys2Proof.Safety

/-! ### What is kept -/

/-- The access rights of a coprocessor: whether it is attached, and whether user mode may use it. -/
structure SameRights (c d : Coproc) : Prop where
  present : d.present = c.present
  supervisorOnly : d.supervisorOnly = c.supervisorOnly

/-- What no step changes: the parameters, the byte order, and which coprocessors are attached for whom. -/
structure SameConfiguration (s t : State) : Prop where
  cfg : t.cfg = s.cfg
  endian : t.sr.endian = s.sr.endian
  cp1 : SameRights s.cp1 t.cp1
  cp2 : SameRights s.cp2 t.cp2
  cp3 : SameRights s.cp3 t.cp3

/-- The part of `MachineInv` that does not speak of the unit being executed. -/
structure DataInv (s : State) : Prop where
  lrEven : s.spr.lr.getLsbD 0 = false
  sspAligned : s.spr.ssp.extractLsb' 0 2 = 0
  uspAligned : s.spr.usp.extractLsb' 0 2 = 0
  vectorBaseAligned : s.scp.vectorBase.extractLsb' 0 10 = 0
  pendingCode : s.scp.pending = true ↔ s.scp.pendingCode ≠ 0b1111
  memWf : s.mem.wf = true
  ispmWf : s.ispmMem.wf = true
  dspmWf : s.dspmMem.wf = true

/-- What user mode leaves as it was, short of an exception (60_exceptions.md R565). -/
structure UserFrame (s t : State) : Prop where
  ssp : t.spr.ssp = s.spr.ssp
  systemBits : KeepsSystemBits s t
  halted : t.halted = s.halted
  scp : ∃ tlb ir er pc, t.scp = { s.scp with tlb := tlb, backupIr := ir, backupEr := er, backupPc := pc }
  tlb : ∀ slot, (readTlb t slot).ppn = (readTlb s slot).ppn
    ∧ (readTlb t slot).vword &&& ~~~(0x22#32) = (readTlb s slot).vword &&& ~~~(0x22#32)
  cp1 : s.cp1.supervisorOnly = true → t.cp1 = s.cp1
  cp2 : s.cp2.supervisorOnly = true → t.cp2 = s.cp2
  cp3 : s.cp3.supervisorOnly = true → t.cp3 = s.cp3

/-- What parts of an instruction that raise nothing may leave. -/
structure Worked (s t : State) : Prop where
  config : SameConfiguration s t
  lockup : t.lockup = s.lockup
  inv : DataInv s → DataInv t
  user : isUser s = true → UserFrame s t

/-- What a step that is no Reset and no exception entry may leave. -/
structure Completes (s t : State) : Prop where
  config : SameConfiguration s t
  lockup : t.lockup = s.lockup
  inv : MachineInv s → MachineInv t
  user : isUser s = true → UserFrame s t

/-- What may be different when an exception entry begins. -/
structure Poised (s u : State) : Prop where
  config : SameConfiguration s u
  lockup : u.lockup = s.lockup
  pc : u.pc = s.pc
  spr : u.spr = s.spr
  systemBits : KeepsSystemBits s u
  inv : DataInv s → DataInv u

/-- An exception entry of the step. -/
def Enters (s t : State) : Prop :=
  ∃ u off savedPc kind, Poised s u ∧ exceptionEntry off savedPc kind u = .next t

/-- How an instruction ends that goes on: completed, or in an entry. -/
def Ends (s : State) (o : Outcome) : Prop := ∀ t, o = .next t → Completes s t ∨ Enters s t

/-! ### Composition -/

theorem SameConfiguration.refl (s : State) : SameConfiguration s s :=
  ⟨rfl, rfl, ⟨rfl, rfl⟩, ⟨rfl, rfl⟩, ⟨rfl, rfl⟩⟩

theorem keepsSystemBits_of_sr {s t : State} (h : t.sr = s.sr) : KeepsSystemBits s t := by
  unfold KeepsSystemBits
  rw [h]
  exact ⟨rfl, rfl, rfl, rfl, rfl, rfl, rfl⟩

theorem SameRights.trans {c d e : Coproc} (a : SameRights c d) (b : SameRights d e) : SameRights c e :=
  ⟨b.present.trans a.present, b.supervisorOnly.trans a.supervisorOnly⟩

theorem SameRights.of_eq {c d : Coproc} (h : d = c) : SameRights c d := by subst h; exact ⟨rfl, rfl⟩

theorem SameConfiguration.trans {s t u : State} (a : SameConfiguration s t) (b : SameConfiguration t u) :
    SameConfiguration s u :=
  ⟨b.cfg.trans a.cfg, b.endian.trans a.endian, a.cp1.trans b.cp1, a.cp2.trans b.cp2, a.cp3.trans b.cp3⟩

theorem keepsSystemBits_trans {s t u : State} (a : KeepsSystemBits s t) (b : KeepsSystemBits t u) :
    KeepsSystemBits s u := by
  obtain ⟨a1, a2, a3, a4, a5, a6, a7⟩ := a
  obtain ⟨b1, b2, b3, b4, b5, b6, b7⟩ := b
  exact ⟨b1.trans a1, b2.trans a2, b3.trans a3, b4.trans a4, b5.trans a5, b6.trans a6, b7.trans a7⟩

/-- The mode is one of the system bits. -/
theorem isUser_of_keepsSystemBits {s t : State} (h : KeepsSystemBits s t) : isUser t = isUser s := by
  unfold isUser SR.mode
  rw [h.1, h.2.1]

theorem UserFrame.trans {s t u : State} (a : UserFrame s t) (b : UserFrame t u) (hc : SameConfiguration s t) :
    UserFrame s u where
  ssp := b.ssp.trans a.ssp
  systemBits := keepsSystemBits_trans a.systemBits b.systemBits
  halted := b.halted.trans a.halted
  scp := by
    obtain ⟨_, _, _, _, ha⟩ := a.scp
    obtain ⟨_, _, _, _, hb⟩ := b.scp
    exact ⟨_, _, _, _, by rw [hb, ha]⟩
  tlb slot := ⟨(b.tlb slot).1.trans (a.tlb slot).1, (b.tlb slot).2.trans (a.tlb slot).2⟩
  cp1 h := (b.cp1 (hc.cp1.supervisorOnly.trans h)).trans (a.cp1 h)
  cp2 h := (b.cp2 (hc.cp2.supervisorOnly.trans h)).trans (a.cp2 h)
  cp3 h := (b.cp3 (hc.cp3.supervisorOnly.trans h)).trans (a.cp3 h)

theorem Worked.trans {s t u : State} (a : Worked s t) (b : Worked t u) : Worked s u where
  config := a.config.trans b.config
  lockup := b.lockup.trans a.lockup
  inv h := b.inv (a.inv h)
  user h :=
    have f := a.user h
    f.trans (b.user ((isUser_of_keepsSystemBits f.systemBits).trans h)) a.config

theorem Poised.trans {s t u : State} (a : Poised s t) (b : Poised t u) : Poised s u where
  config := a.config.trans b.config
  lockup := b.lockup.trans a.lockup
  pc := b.pc.trans a.pc
  spr := b.spr.trans a.spr
  systemBits := keepsSystemBits_trans a.systemBits b.systemBits
  inv h := b.inv (a.inv h)

theorem Completes.trans {s t u : State} (a : Completes s t) (b : Completes t u) : Completes s u where
  config := a.config.trans b.config
  lockup := b.lockup.trans a.lockup
  inv h := b.inv (a.inv h)
  user h :=
    have f := a.user h
    f.trans (b.user ((isUser_of_keepsSystemBits f.systemBits).trans h)) a.config

/-- What ends after a state that is as good as the first ends after the first. -/
theorem Ends.after {s u : State} {o : Outcome} (hc : Completes s u) (hp : Poised s u) (h : Ends u o) : Ends s o := by
  intro t ht
  rcases h t ht with h | ⟨v, off, pc, kind, hv, he⟩
  · exact .inl (hc.trans h)
  · exact .inr ⟨v, off, pc, kind, hp.trans hv, he⟩

/-! ### The invariant and the unit -/

theorem dataInv_of_machineInv {s : State} (h : MachineInv s) : DataInv s :=
  ⟨h.lrEven, h.sspAligned, h.uspAligned, h.vectorBaseAligned, h.pendingCode, h.memWf, h.ispmWf, h.dspmWf⟩

theorem DataInv.machineInv {s : State} (h : DataInv s) (hp : s.pc.getLsbD 0 = false)
    (he : s.sr.e = true ↔ 0 < s.leris) : MachineInv s :=
  ⟨hp, h.lrEven, h.sspAligned, h.uspAligned, h.vectorBaseAligned, he, h.pendingCode, h.memWf, h.ispmWf, h.dspmWf⟩

theorem getLsbD_zero_and_even (x : Word) : (x &&& 0xFFFFFFFE).getLsbD 0 = false := by simp

theorem extract_and_aligned (x : Word) : (x &&& 0xFFFFFFFC).extractLsb' 0 2 = 0 := by
  rw [extract_two_iff, and_stackMask_toNat]; omega

/-- A jump ends the unit, so it needs only the data to be in order. -/
theorem DataInv.jumpTo {s : State} (h : DataInv s) (target : Word) : MachineInv (jumpTo target s) :=
  DataInv.machineInv (s := Machine.jumpTo target s) ⟨h.1, h.2, h.3, h.4, h.5, h.6, h.7, h.8⟩
    (getLsbD_zero_and_even target) (by simp)

theorem Worked.jumpTo {s u : State} (h : Worked s u) (target : Word) : Completes s (jumpTo target u) where
  config := ⟨h.config.cfg, h.config.endian, h.config.cp1, h.config.cp2, h.config.cp3⟩
  lockup := h.lockup
  inv hs := (h.inv (dataInv_of_machineInv hs)).jumpTo target
  user hs :=
    have f := h.user hs
    ⟨f.ssp, f.systemBits, f.halted, f.scp, f.tlb, f.cp1, f.cp2, f.cp3⟩

theorem ends_jumpTo {s u : State} (h : Worked s u) (target : Word) : Ends s (.next (jumpTo target u)) := by
  intro t ht
  cases ht
  exact .inl (h.jumpTo target)

theorem ends_retire {s u : State} (h : Worked s u) : Ends s (.next (retire u)) := ends_jumpTo h _

theorem ends_fault (s : State) (r : Fault) : Ends s (.fault r) := fun _ h => nomatch h

theorem ends_refused (s : State) (r : Refusal) : Ends s (.refused r) := fun _ h => nomatch h

theorem ends_exceptionEntry {s u : State} (h : Poised s u) (off savedPc : Word) (kind : EntryKind) :
    Ends s (exceptionEntry off savedPc kind u) := fun _ ht => .inr ⟨u, off, savedPc, kind, h, ht⟩

theorem ends_ite {s : State} {p : Prop} [Decidable p] {a b : Outcome} (ha : p → Ends s a) (hb : ¬p → Ends s b) :
    Ends s (if p then a else b) := by
  split
  · exact ha ‹_›
  · exact hb ‹_›

/-! ### Parts that change registers -/

/-- Nothing is different but general registers, special registers other than SSP, with LR even and USP aligned as
they were, flags, pc and the unit, the backup registers, stale halfwords, inputs and outputs, and the count of free
values. -/
structure Calm (s t : State) : Prop where
  systemBits : KeepsSystemBits s t
  lr : s.spr.lr.getLsbD 0 = false → t.spr.lr.getLsbD 0 = false
  ssp : t.spr.ssp = s.spr.ssp
  usp : s.spr.usp.extractLsb' 0 2 = 0 → t.spr.usp.extractLsb' 0 2 = 0
  scp : ∃ ir er pc, t.scp = { s.scp with backupIr := ir, backupEr := er, backupPc := pc }
  cp1 : t.cp1 = s.cp1
  cp2 : t.cp2 = s.cp2
  cp3 : t.cp3 = s.cp3
  mem : t.mem = s.mem
  ispmMem : t.ispmMem = s.ispmMem
  dspmMem : t.dspmMem = s.dspmMem
  halted : t.halted = s.halted
  lockup : t.lockup = s.lockup
  cfg : t.cfg = s.cfg

theorem SameConfiguration.of_eq {s t : State} (hb : KeepsSystemBits s t) (h : t.cfg = s.cfg) (h1 : t.cp1 = s.cp1)
    (h2 : t.cp2 = s.cp2) (h3 : t.cp3 = s.cp3) : SameConfiguration s t :=
  ⟨h, hb.2.2.2.2.2.2, .of_eq h1, .of_eq h2, .of_eq h3⟩

theorem Calm.config {s t : State} (h : Calm s t) : SameConfiguration s t :=
  .of_eq h.systemBits h.cfg h.cp1 h.cp2 h.cp3

theorem Calm.dataInv {s t : State} (h : Calm s t) (i : DataInv s) : DataInv t := by
  obtain ⟨ir, er, pc, hscp⟩ := h.scp
  exact ⟨h.lr i.lrEven, by rw [h.ssp]; exact i.sspAligned, h.usp i.uspAligned, by rw [hscp]; exact i.vectorBaseAligned,
    by rw [hscp]; exact i.pendingCode, by rw [h.mem]; exact i.memWf, by rw [h.ispmMem]; exact i.ispmWf,
    by rw [h.dspmMem]; exact i.dspmWf⟩

theorem Calm.userFrame {s t : State} (h : Calm s t) : UserFrame s t := by
  obtain ⟨ir, er, pc, hscp⟩ := h.scp
  have htlb (slot : BitVec 8) : readTlb t slot = readTlb s slot := by unfold readTlb; rw [hscp]
  exact ⟨h.ssp, h.systemBits, h.halted, ⟨_, ir, er, pc, hscp⟩, fun slot => by rw [htlb]; exact ⟨rfl, rfl⟩,
    fun _ => h.cp1, fun _ => h.cp2, fun _ => h.cp3⟩

theorem Calm.worked {s t : State} (h : Calm s t) : Worked s t := ⟨h.config, h.lockup, h.dataInv, fun _ => h.userFrame⟩

/-- In supervisor mode a part may change anything that the invariant and the configuration allow. -/
theorem worked_of_supervisor {s t : State} (hs : isUser s = false) (hc : SameConfiguration s t)
    (hl : t.lockup = s.lockup) (hi : DataInv s → DataInv t) : Worked s t :=
  ⟨hc, hl, hi, fun hu => by simp [hs] at hu⟩

theorem calm_spr {s : State} {spr : Spr} (hl : s.spr.lr.getLsbD 0 = false → spr.lr.getLsbD 0 = false)
    (hs : spr.ssp = s.spr.ssp) (hu : s.spr.usp.extractLsb' 0 2 = 0 → spr.usp.extractLsb' 0 2 = 0) :
    Calm s { s with spr := spr } :=
  ⟨keepsSystemBits_of_sr rfl, hl, hs, hu, ⟨_, _, _, rfl⟩, rfl, rfl, rfl, rfl, rfl, rfl, rfl, rfl, rfl⟩

theorem calm_sr {s : State} {sr : SR} (h : KeepsSystemBits s { s with sr := sr }) : Calm s { s with sr := sr } :=
  ⟨h, id, rfl, id, ⟨_, _, _, rfl⟩, rfl, rfl, rfl, rfl, rfl, rfl, rfl, rfl, rfl⟩

theorem calm_writeReg (s : State) (r : Reg) (v : Word) : Calm s (writeReg s r v) :=
  ⟨keepsSystemBits_of_sr rfl, id, rfl, id, ⟨_, _, _, rfl⟩, rfl, rfl, rfl, rfl, rfl, rfl, rfl, rfl, rfl⟩

theorem calm_draws (s : State) (d : Nat) : Calm s { s with draws := d } :=
  ⟨keepsSystemBits_of_sr rfl, id, rfl, id, ⟨_, _, _, rfl⟩, rfl, rfl, rfl, rfl, rfl, rfl, rfl, rfl, rfl⟩

theorem calm_syncStale (s : State) : Calm s (syncStale s) :=
  ⟨keepsSystemBits_of_sr rfl, id, rfl, id, ⟨_, _, _, rfl⟩, rfl, rfl, rfl, rfl, rfl, rfl, rfl, rfl, rfl⟩

theorem calm_inputs (s : State) (env : Env) (events : List Event) : Calm s { s with env := env, events := events } :=
  ⟨keepsSystemBits_of_sr rfl, id, rfl, id, ⟨_, _, _, rfl⟩, rfl, rfl, rfl, rfl, rfl, rfl, rfl, rfl, rfl⟩

theorem calm_latchBackup (w : Half) (s : State) : Calm s (latchBackup w s) := by
  obtain ⟨d, er, h, _⟩ := latchBackup_frame w s
  rw [h]
  exact ⟨keepsSystemBits_of_sr rfl, id, rfl, id, ⟨_, _, _, rfl⟩, rfl, rfl, rfl, rfl, rfl, rfl, rfl, rfl, rfl⟩

/-- LR is written with bit 0 clear. -/
theorem calm_writeLr (s : State) (v : Word) : Calm s (writeLr s v) :=
  calm_spr (fun _ => getLsbD_zero_and_even v) rfl id

/-- USP is written with bits 1:0 clear. -/
theorem calm_usp (s : State) (v : Word) : Calm s { s with spr := { s.spr with usp := v &&& 0xFFFFFFFC } } :=
  calm_spr id rfl fun _ => extract_and_aligned v

theorem Worked.refl (s : State) : Worked s s := (calm_draws s s.draws).worked

theorem worked_writeReg (s : State) (r : Reg) (v : Word) : Worked s (writeReg s r v) := (calm_writeReg s r v).worked

theorem worked_draw (s : State) : Worked s (draw s).2 := (calm_draws s _).worked

theorem worked_writeLr (s : State) (v : Word) : Worked s (writeLr s v) := (calm_writeLr s v).worked

theorem worked_sr {s : State} {sr : SR} (h : KeepsSystemBits s { s with sr := sr }) : Worked s { s with sr := sr } :=
  (calm_sr h).worked

theorem worked_spr {s : State} {spr : Spr} (hl : spr.lr = s.spr.lr) (hs : spr.ssp = s.spr.ssp)
    (hu : spr.usp = s.spr.usp) : Worked s { s with spr := spr } :=
  (calm_spr (fun h => by rw [hl]; exact h) hs fun h => by rw [hu]; exact h).worked

theorem worked_drawFlags (s : State) : Worked s (drawFlags s) :=
  (worked_draw s).trans (worked_sr (s := (draw s).2) ⟨rfl, rfl, rfl, rfl, rfl, rfl, rfl⟩)

theorem worked_writeProduct (p : BitVec 64) (s : State) : Worked s (writeProduct p s) := worked_spr rfl rfl rfl

theorem worked_writeAccumulators (r : BitVec 96) (s : State) : Worked s (writeAccumulators r s) :=
  worked_spr rfl rfl rfl

theorem worked_mulRdEffect (d : BitVec 3) (p : BitVec 64) (s : State) : Worked s (mulRdEffect d p s) := by
  unfold mulRdEffect
  split
  · exact ((worked_draw s).trans (worked_draw _)).trans ((worked_writeReg _ _ _).trans (worked_writeReg _ _ _))
  · exact .refl s
  · exact worked_writeReg _ _ _
  · exact (worked_writeReg _ _ _).trans (worked_writeReg _ _ _)

theorem worked_withCounter (c : BitVec 1) (v : Word) (s : State) : Worked s (withCounter c v s) := by
  unfold withCounter
  split
  · exact worked_spr rfl rfl rfl
  · exact worked_spr rfl rfl rfl

theorem worked_stepCounter (c : BitVec 1) (s : State) : Worked s (stepCounter c s) := by
  unfold stepCounter
  dsimp only
  split
  · exact (worked_withCounter c _ s).trans (worked_sr (s := withCounter c _ s)
      (by rw [← withCounter_sr c _ s]; exact ⟨rfl, rfl, rfl, rfl, rfl, rfl, rfl⟩))
  · exact worked_withCounter _ _ s

/-- The stack pointer of the mode is written with bits 1:0 clear: in user mode not SSP. -/
theorem worked_writeSp (s : State) (v : Word) : Worked s (writeSp s v) := by
  unfold writeSp
  split
  · exact (calm_usp s v).worked
  · rename_i h
    exact worked_of_supervisor (by simpa using h) (.of_eq (keepsSystemBits_of_sr rfl) rfl rfl rfl rfl) rfl
      fun i => ⟨i.1, extract_and_aligned v, i.3, i.4, i.5, i.6, i.7, i.8⟩

/-! ### Parts that access memory -/

/-- What accesses that raise nothing leave: as for any accesses, and of the system coprocessor only the TLB. -/
structure Touched (s t : State) : Prop where
  accessed : Accessed s t
  scp : ∃ tlb, t.scp = { s.scp with tlb := tlb }

theorem Touched.refl (s : State) : Touched s s := ⟨.refl s, ⟨_, rfl⟩⟩

theorem Touched.trans {s t u : State} (a : Touched s t) (b : Touched t u) : Touched s u := by
  refine ⟨a.accessed.trans b.accessed, ?_⟩
  obtain ⟨_, ha⟩ := a.scp
  obtain ⟨tlb, hb⟩ := b.scp
  exact ⟨tlb, by rw [hb, ha]⟩

theorem Touched.of_scp {s t : State} (ha : Accessed s t) (h : t.scp = s.scp) : Touched s t := ⟨ha, ⟨_, h⟩⟩

theorem Accessed.keepsSystemBits {s t : State} (h : Accessed s t) : KeepsSystemBits s t :=
  keepsSystemBits_of_sr h.sr

theorem Accessed.dataInv {s t : State} (h : Accessed s t) (i : DataInv s) : DataInv t :=
  ⟨by rw [h.spr]; exact i.lrEven, by rw [h.spr]; exact i.sspAligned, by rw [h.spr]; exact i.uspAligned,
    by rw [h.vectorBase]; exact i.vectorBaseAligned, h.pending i.pendingCode, h.memWf i.memWf, h.ispmWf i.ispmWf,
    h.dspmWf i.dspmWf⟩

theorem Accessed.machineInv {s t : State} (h : Accessed s t) (i : MachineInv s) : MachineInv t :=
  (h.dataInv (dataInv_of_machineInv i)).machineInv (by rw [h.pc]; exact i.pcEven) (by rw [h.sr, h.leris]; exact i.extension)

theorem Accessed.config {s t : State} (h : Accessed s t) : SameConfiguration s t :=
  .of_eq h.keepsSystemBits h.cfg h.cp1 h.cp2 h.cp3

theorem Accessed.poised {s t : State} (h : Accessed s t) : Poised s t :=
  ⟨h.config, h.lockup, h.pc, h.spr, h.keepsSystemBits, h.dataInv⟩

theorem Touched.userFrame {s t : State} (h : Touched s t) : UserFrame s t where
  ssp := by rw [h.accessed.spr]
  systemBits := h.accessed.keepsSystemBits
  halted := h.accessed.halted
  scp := by obtain ⟨tlb, ht⟩ := h.scp; exact ⟨tlb, _, _, _, ht⟩
  tlb slot := ⟨h.accessed.tlbPage slot, h.accessed.tlbWord slot⟩
  cp1 _ := h.accessed.cp1
  cp2 _ := h.accessed.cp2
  cp3 _ := h.accessed.cp3

theorem Touched.worked {s t : State} (h : Touched s t) : Worked s t :=
  ⟨h.accessed.config, h.accessed.lockup, h.accessed.dataInv, fun _ => h.userFrame⟩

theorem Touched.completes {s t : State} (h : Touched s t) : Completes s t :=
  ⟨h.accessed.config, h.accessed.lockup, h.accessed.machineInv, fun _ => h.userFrame⟩

/-- A part of an instruction that stays within `Accessed`, and within `Touched` unless it raises. -/
structure AccTouches {α : Type} (s : State) (a : Acc α) : Prop where
  keeps : AccKeeps s a
  ok : ∀ v t, a = .ok v t → Touched s t

theorem accTouches_andThen {α β : Type} {s : State} {a : Acc α} {f : α → State → Acc β} (ha : AccTouches s a)
    (hf : ∀ v t, AccTouches t (f v t)) : AccTouches s (andThen a f) := by
  refine ⟨accKeeps_andThen ha.keeps fun v t => (hf v t).keeps, ?_⟩
  intro w u h
  cases a with
  | ok v t => exact (ha.ok v t rfl).trans ((hf v t).ok w u h)
  | raise off t => cases h
  | fault r => cases h

theorem accTouches_ok {α : Type} {s t : State} (v : α) (h : Touched s t) : AccTouches s (.ok v t) :=
  ⟨h.accessed, fun _ _ e => by cases e; exact h⟩

theorem accTouches_locate (k : AccessKind) (u : Bool) (z : AccessSize) (va : Word) (s : State) :
    AccTouches s (locate k u z va s) := by
  refine ⟨accKeeps_locate k u z va s, fun g t h => ?_⟩
  have ha := accKeeps_locate k u z va s
  rw [h] at ha
  obtain ⟨tlb, ht⟩ := (locate_onlyTlbTouched h).1
  exact ⟨ha, ⟨tlb, by rw [ht]⟩⟩

theorem touched_readTarget (z : AccessSize) (g : Target) (s : State) : Touched s (readTarget z g s).2 := by
  refine .of_scp (accessed_readTarget z g s) ?_
  obtain ⟨env, d, h, _⟩ := readTarget_frame z g s
  rw [h]

theorem touched_writeTarget (z : AccessSize) (g : Target) (v : Word) (s : State) :
    Touched s (writeTarget z g v s) := by
  refine .of_scp (accessed_writeTarget z g v s) ?_
  obtain ⟨m, i, d, st, ev, h⟩ := writeTarget_frame z g v s
  rw [h]

theorem accTouches_memRead (z : AccessSize) (va : Word) (s : State) : AccTouches s (memRead z va s) :=
  accTouches_andThen (accTouches_locate _ _ _ _ _) fun g u => accTouches_ok _ (touched_readTarget z g u)

theorem accTouches_memWrite (z : AccessSize) (va v : Word) (s : State) : AccTouches s (memWrite z va v s) :=
  accTouches_andThen (accTouches_locate _ _ _ _ _) fun g u => accTouches_ok _ (touched_writeTarget z g v u)

theorem touched_fetchFrom (l : Loc) (cc : BitVec 2) (s : State) : Touched s (fetchFrom l cc s).2 := by
  refine .of_scp (accessed_fetchFrom l cc s) ?_
  unfold fetchFrom
  split <;> rfl

theorem accTouches_fetchHalf (s : State) : AccTouches s (fetchHalf s) := by
  refine accTouches_andThen (accTouches_locate _ _ _ _ _) fun g u => ?_
  cases g with
  | storage l cc => exact accTouches_ok _ (touched_fetchFrom l cc u)
  | device pa => exact accTouches_ok _ (touched_readTarget .half (.device pa) u)
  | openBus => exact accTouches_ok _ (touched_readTarget .half .openBus u)

theorem accTouches_pushWords (top : Word) (vs : List Word) (s : State) : AccTouches s (pushWords top vs s) := by
  induction vs generalizing top s with
  | nil => exact accTouches_ok () (.refl s)
  | cons v vs ih => exact accTouches_andThen (accTouches_memWrite _ _ _ _) fun _ t => ih _ t

theorem accTouches_popWords (bottom : Word) (n : Nat) (s : State) : AccTouches s (popWords bottom n s) := by
  induction n generalizing bottom s with
  | zero => exact accTouches_ok [] (.refl s)
  | succ n ih =>
    exact accTouches_andThen (accTouches_memRead _ _ _) fun _ t =>
      accTouches_andThen (ih _ t) fun _ u => accTouches_ok _ (.refl u)

/-- An instruction made of accesses and what follows them. -/
theorem ends_conclude {α : Type} {s : State} {a : Acc α} {f : α → State → Outcome} (ha : AccTouches s a)
    (hf : ∀ v u, Touched s u → Ends s (f v u)) : Ends s (conclude a f) := by
  cases a with
  | ok v u => exact hf v u (ha.ok v u rfl)
  | raise off u => exact ends_exceptionEntry (Accessed.poised ha.keeps) _ _ _
  | fault r => exact ends_fault s r

/-! ### Exceptions an instruction raises itself -/

theorem Poised.refl (s : State) : Poised s s := (Accessed.refl s).poised

theorem poised_latchScp {code : BitVec 4} (s : State) (h : code ≠ 0b1111) : Poised s (latchScp code s) :=
  (accessed_latchScp code s h).poised

theorem Calm.poised {s u : State} (h : Calm s u) (hp : u.pc = s.pc) (hs : u.spr = s.spr) : Poised s u :=
  ⟨h.config, h.lockup, hp, hs, h.systemBits, h.dataInv⟩

theorem poised_latchBackup (w : Half) (s : State) : Poised s (latchBackup w s) :=
  (calm_latchBackup w s).poised (by simp) (by simp)

theorem ends_privilegeViolation (s : State) : Ends s (privilegeViolation s) :=
  ends_exceptionEntry (poised_latchScp s (by decide)) _ _ _

theorem ends_userSysWrite {s : State} {ignored : State → Outcome} (h : Ends s (ignored s)) :
    Ends s (userSysWrite ignored s) := by
  unfold userSysWrite
  split
  · exact ends_fault s _
  · exact h
  · exact ends_privilegeViolation s

theorem ends_undefinedInstruction (w : Half) (s : State) : Ends s (undefinedInstruction w s) := by
  unfold undefinedInstruction
  split
  · exact ends_exceptionEntry (poised_latchBackup w s) _ _ _
  · exact ends_retire (.refl s)

/-! ### The families of instructions -/

theorem ends_finishAlu {s : State} (dst : Reg) (r : Word) {sr : SR} (h : KeepsSystemBits s { s with sr := sr }) :
    Ends s (finishAlu dst r sr s) := ends_retire ((worked_sr h).trans (worked_writeReg _ _ _))

theorem ends_finishFlags {s : State} {sr : SR} (h : KeepsSystemBits s { s with sr := sr }) :
    Ends s (finishFlags sr s) := ends_retire (worked_sr h)

theorem ends_finishNz (dst : Reg) (r : Word) (s : State) : Ends s (finishNz dst r s) :=
  ends_finishAlu dst r ⟨rfl, rfl, rfl, rfl, rfl, rfl, rfl⟩

theorem ends_addInto (dst : Reg) (b : Word) (cin : Bool) (s : State) : Ends s (addInto dst b cin s) :=
  ends_finishAlu dst _ ⟨rfl, rfl, rfl, rfl, rfl, rfl, rfl⟩

theorem ends_subInto (dst : Reg) (b : Word) (bin : Bool) (s : State) : Ends s (subInto dst b bin s) :=
  ends_finishAlu dst _ ⟨rfl, rfl, rfl, rfl, rfl, rfl, rfl⟩

theorem ends_compareWith (r : Reg) (b : Word) (s : State) : Ends s (compareWith r b s) :=
  ends_finishFlags ⟨rfl, rfl, rfl, rfl, rfl, rfl, rfl⟩

theorem ends_shiftInto (kind : ShiftKind) (dst : Reg) (n : BitVec 5) (s : State) : Ends s (shiftInto kind dst n s) := by
  unfold shiftInto
  dsimp only
  split
  · exact ends_retire ((worked_draw s).trans
      ((worked_sr (s := (draw s).2) (sr := flagsNz _ { s.sr with c := _ }) ⟨rfl, rfl, rfl, rfl, rfl, rfl, rfl⟩).trans
        (worked_writeReg _ _ _)))
  · exact ends_finishAlu dst _ ⟨rfl, rfl, rfl, rfl, rfl, rfl, rfl⟩

theorem ends_countInto (b : Bool) (r : Reg) (s : State) : Ends s (countInto b r s) :=
  ends_finishAlu r _ ⟨rfl, rfl, rfl, rfl, rfl, rfl, rfl⟩

theorem ends_branchIf (taken : Bool) (off : BitVec 8) (s : State) : Ends s (branchIf taken off s) := by
  cases taken
  · exact ends_retire (.refl s)
  · exact ends_jumpTo (.refl s) _

theorem ends_loadReg (z : AccessSize) (ext : Word → Word) (ea : Word) (dst : Reg) (s : State) :
    Ends s (loadReg z ext ea dst s) :=
  ends_conclude (accTouches_memRead z ea s) fun _ _ h => ends_retire (h.worked.trans (worked_writeReg _ _ _))

theorem ends_storeReg (z : AccessSize) (ea v : Word) (s : State) : Ends s (storeReg z ea v s) :=
  ends_conclude (accTouches_memWrite z ea v s) fun _ _ h => ends_retire h.worked

theorem ends_pushList (list : BitVec 8) (value : BitVec 3 → Word) (s : State) : Ends s (pushList list value s) :=
  ends_conclude (accTouches_pushWords _ _ s) fun _ _ h => ends_retire (h.worked.trans (worked_writeSp _ _))

/-- A POP whose assignment is made of parts and then ends the unit. -/
theorem ends_popList {s : State} (list : BitVec 8) {assign : List (BitVec 3 × Word) → State → State}
    (h : ∀ ws u, Worked s u → Ends s (.next (assign ws u))) : Ends s (popList list assign s) :=
  ends_conclude (accTouches_popWords _ _ s) fun _ _ hu => h _ _ (hu.worked.trans (worked_writeSp _ _))

theorem worked_assignRegs (reg : BitVec 3 → Reg) (ws : List (BitVec 3 × Word)) (s : State) :
    Worked s (assignRegs reg ws s) := by
  induction ws generalizing s with
  | nil => exact .refl s
  | cons w ws ih => exact (worked_writeReg s _ _).trans (ih _)

theorem worked_assignSpecial (s : State) (w : BitVec 3 × Word) : Worked s (assignSpecial s w) := by
  unfold assignSpecial
  split
  · exact worked_spr rfl rfl rfl
  · exact worked_spr rfl rfl rfl
  · exact worked_spr rfl rfl rfl
  · exact worked_spr rfl rfl rfl
  · exact worked_writeLr s _
  · exact .refl s

theorem worked_foldl_assignSpecial (ws : List (BitVec 3 × Word)) (s : State) :
    Worked s (ws.foldl assignSpecial s) := by
  induction ws generalizing s with
  | nil => exact .refl s
  | cons w ws ih => exact (worked_assignSpecial s w).trans (ih _)

/-- A POP of SR changes SR alone. -/
theorem popSr_frame (user : Bool) (w : Word) (s : State) : ∃ sr, popSr user w s = { s with sr := sr }
    ∧ sr.endian = s.sr.endian ∧ (user = true → KeepsSystemBits s { s with sr := sr }) := by
  cases user
  · exact ⟨_, rfl, rfl, fun h => nomatch h⟩
  · exact ⟨_, rfl, rfl, fun _ => ⟨rfl, rfl, rfl, rfl, rfl, rfl, rfl⟩⟩

/-- A POP of SR keeps the byte order, and in user mode the system bits. -/
theorem Worked.popSr {s u : State} (h : Worked s u) (w : Word) : Worked s (popSr (isUser s) w u) := by
  obtain ⟨sr, hp, he, hb⟩ := popSr_frame (isUser s) w u
  rw [hp]
  refine ⟨⟨h.config.cfg, he.trans h.config.endian, h.config.cp1, h.config.cp2, h.config.cp3⟩, h.lockup,
    fun i => have j := h.inv i; ⟨j.1, j.2, j.3, j.4, j.5, j.6, j.7, j.8⟩, fun hs => ?_⟩
  have f := h.user hs
  exact ⟨f.ssp, keepsSystemBits_trans f.systemBits (hb hs), f.halted, f.scp, f.tlb, f.cp1, f.cp2, f.cp3⟩

theorem ends_exceptionReturn {s u : State} (h : Worked s u) (pcWord srWord : Option Word) :
    Ends s (.next (exceptionReturn (isUser s) pcWord srWord u)) := by
  unfold exceptionReturn
  dsimp only
  have hr : Worked s (match srWord with | some w => popSr (isUser s) w u | none => u) := by
    cases srWord
    · exact h
    · exact h.popSr _
  cases pcWord
  · exact ends_retire hr
  · exact ends_jumpTo hr _

/-- A POP of general registers. -/
theorem ends_popRegs (reg : BitVec 3 → Reg) (list : BitVec 8) (s : State) :
    Ends s (popList list (fun ws s => retire (assignRegs reg ws s)) s) :=
  ends_popList list fun ws u hu => ends_retire (hu.trans (worked_assignRegs reg ws u))

theorem ends_popSpecial (list : BitVec 8) (s : State) : Ends s (popSpecial list s) :=
  ends_popList list fun _ _ hu => ends_exceptionReturn (hu.trans (worked_foldl_assignSpecial _ _)) _ _

/-! ### Coprocessors -/

theorem ends_coprocAccess {n : BitVec 2} {onSystem : State → Outcome} {onAttached : CoprocRegs → State → Outcome}
    {s : State} (h0 : isUser s = false → Ends s (onSystem s))
    (h1 : n ≠ 0 → (isUser s = true → (coproc s n).supervisorOnly = false) → Ends s (onAttached (coproc s n).held s)) :
    Ends s (coprocAccess n onSystem onAttached s) := by
  unfold coprocAccess
  refine ends_ite (fun _ => ends_ite (fun _ => ends_privilegeViolation s) fun h => h0 (by simpa using h)) fun hn => ?_
  refine ends_ite (fun _ => ends_exceptionEntry (.refl s) _ _ _) fun h => h1 hn fun hu => ?_
  simp only [hu, Bool.true_and, Bool.or_eq_true, not_or] at h
  simpa using h.2

/-- Which of the three coprocessors a number names, and what writing what it holds changes. -/
theorem withHeld_cases (n : BitVec 2) (h : CoprocRegs) (s : State) :
    (coproc s n = s.cp1 ∧ withHeld n h s = { s with cp1 := { s.cp1 with held := h } })
      ∨ (coproc s n = s.cp2 ∧ withHeld n h s = { s with cp2 := { s.cp2 with held := h } })
      ∨ (coproc s n = s.cp3 ∧ withHeld n h s = { s with cp3 := { s.cp3 with held := h } }) := by
  unfold withHeld coproc
  split
  · exact .inl ⟨rfl, rfl⟩
  · exact .inr (.inl ⟨rfl, rfl⟩)
  · exact .inr (.inr ⟨rfl, rfl⟩)

/-- What a coprocessor holds is written: its rights stay, and a user's coprocessor is not supervisor-only. -/
theorem worked_withHeld {n : BitVec 2} (h : CoprocRegs) {s : State}
    (hr : isUser s = true → (coproc s n).supervisorOnly = false) : Worked s (withHeld n h s) := by
  have clash {c d : Coproc} (hs : c.supervisorOnly = false) (ht : c.supervisorOnly = true) : d = c := by simp [hs] at ht
  rcases withHeld_cases n h s with ⟨hc, e⟩ | ⟨hc, e⟩ | ⟨hc, e⟩ <;> rw [hc] at hr <;> rw [e]
  · exact ⟨⟨rfl, rfl, ⟨rfl, rfl⟩, ⟨rfl, rfl⟩, ⟨rfl, rfl⟩⟩, rfl, fun i => ⟨i.1, i.2, i.3, i.4, i.5, i.6, i.7, i.8⟩,
      fun hu => ⟨rfl, keepsSystemBits_of_sr rfl, rfl, ⟨_, _, _, _, rfl⟩, fun _ => ⟨rfl, rfl⟩, clash (hr hu),
        fun _ => rfl, fun _ => rfl⟩⟩
  · exact ⟨⟨rfl, rfl, ⟨rfl, rfl⟩, ⟨rfl, rfl⟩, ⟨rfl, rfl⟩⟩, rfl, fun i => ⟨i.1, i.2, i.3, i.4, i.5, i.6, i.7, i.8⟩,
      fun hu => ⟨rfl, keepsSystemBits_of_sr rfl, rfl, ⟨_, _, _, _, rfl⟩, fun _ => ⟨rfl, rfl⟩, fun _ => rfl,
        clash (hr hu), fun _ => rfl⟩⟩
  · exact ⟨⟨rfl, rfl, ⟨rfl, rfl⟩, ⟨rfl, rfl⟩, ⟨rfl, rfl⟩⟩, rfl, fun i => ⟨i.1, i.2, i.3, i.4, i.5, i.6, i.7, i.8⟩,
      fun hu => ⟨rfl, keepsSystemBits_of_sr rfl, rfl, ⟨_, _, _, _, rfl⟩, fun _ => ⟨rfl, rfl⟩, fun _ => rfl,
        fun _ => rfl, clash (hr hu)⟩⟩

theorem coproc_of_accessed {s u : State} (h : Accessed s u) (n : BitVec 2) : coproc u n = coproc s n := by
  unfold coproc
  rw [h.cp1, h.cp2, h.cp3]

theorem isUser_of_accessed {s u : State} (h : Accessed s u) : isUser u = isUser s :=
  isUser_of_keepsSystemBits h.keepsSystemBits

theorem ends_coprocLoad (n : BitVec 2) (r : BitVec 4) (base : State → Word) (s : State) :
    Ends s (coprocLoad n r base s) := by
  refine ends_coprocAccess (fun _ => ends_refused s _) fun _ hr => ?_
  refine ends_conclude (accTouches_memRead _ _ _) fun v u hu => ends_retire (hu.worked.trans (worked_withHeld _ ?_))
  rw [coproc_of_accessed hu.accessed, isUser_of_accessed hu.accessed]
  exact hr

theorem ends_coprocStore (n : BitVec 2) (r : BitVec 4) (base : State → Word) (s : State) :
    Ends s (coprocStore n r base s) :=
  ends_coprocAccess (fun _ => ends_refused s _) fun _ _ =>
    ends_conclude (accTouches_memWrite _ _ _ _) fun _ _ hu => ends_retire hu.worked

/-! ### The system coprocessor -/

/-- What `DataInv` says of the system coprocessor. -/
def ScpInv (c : Scp) : Prop := c.vectorBase.extractLsb' 0 10 = 0 ∧ (c.pending = true ↔ c.pendingCode ≠ 0b1111)

theorem scpInv_gapWrite (index v : Word) {s : State} (h : ScpInv s.scp) : ScpInv (gapWrite index v s).scp := by
  unfold gapWrite
  split <;> exact h

theorem scpInv_cacheCommand (v : Word) {s : State} (h : ScpInv s.scp) : ScpInv (cacheCommand v s).scp := by
  unfold cacheCommand
  split
  · exact h
  · split
    · exact h
    · dsimp only
      split <;> exact h

theorem extract_and_vectorBase (v : Word) : (v &&& 0xFFFFFC00).extractLsb' 0 10 = 0 := by
  apply BitVec.eq_of_getLsbD_eq
  intro i hi
  interval_cases i <;> simp

/-- A write of a system register keeps the vector base aligned and the pending code in step with its flag. -/
theorem scpInv_scprWrite (n : BitVec 4) (v : Word) {s : State} (h : ScpInv s.scp) : ScpInv (scprWrite n v s).scp := by
  unfold scprWrite
  split
  case h_2 => exact scpInv_gapWrite _ _ h
  case h_4 => dsimp only; split <;> exact h
  case h_8 => exact scpInv_cacheCommand _ h
  case h_9 => exact ⟨extract_and_vectorBase v, h.2⟩
  case h_11 => exact ⟨h.1, by simp⟩
  all_goals exact h

/-- MVTC to the system coprocessor is made in supervisor mode alone. -/
theorem worked_scprWrite (n : BitVec 4) (v : Word) {s : State} (hs : isUser s = false) :
    Worked s (scprWrite n v s) := by
  have hi := scpInv_scprWrite n v (s := s)
  obtain ⟨scp, st, d, h, -, -⟩ := scprWrite_frame n v s
  rw [h] at hi ⊢
  refine worked_of_supervisor hs (.of_eq (keepsSystemBits_of_sr rfl) rfl rfl rfl rfl) rfl fun i => ?_
  obtain ⟨hv, hp⟩ := hi ⟨i.vectorBaseAligned, i.pendingCode⟩
  refine ⟨i.lrEven, i.sspAligned, ?_, hv, hp, i.memWf, i.ispmWf, i.dspmWf⟩
  dsimp only
  split
  · exact extract_and_aligned v
  · exact i.uspAligned

theorem worked_scprRead (n : BitVec 4) (s : State) : Worked s (scprRead n s).2 := by
  obtain ⟨d, h⟩ := scprRead_frame n s
  rw [h]
  exact (calm_draws s d).worked

theorem ends_execCpcmd (n : BitVec 2) (cmd : BitVec 6) (s : State) : Ends s (execCpcmd n cmd s) :=
  ends_coprocAccess (fun _ => ends_refused s _) fun _ hr => ends_retire (worked_withHeld _ hr)

theorem calm_srZ (s : State) (z : Bool) : Calm s { s with sr := { s.sr with z := z } } :=
  calm_sr ⟨rfl, rfl, rfl, rfl, rfl, rfl, rfl⟩

theorem ends_execGetc (n : BitVec 2) (pos : BitVec 4) (s : State) : Ends s (execGetc n pos s) :=
  ends_coprocAccess (fun _ => ends_refused s _) fun _ _ => ends_retire (calm_srZ s _).worked

theorem ends_execExecCp (n : BitVec 2) (pos : BitVec 4) (s : State) : Ends s (execExecCp n pos s) := by
  refine ends_coprocAccess (fun _ => ends_refused s _) fun _ _ => ?_
  have h := calm_srZ s (!(coproc s n).held.status.getLsbD pos.toNat)
  exact ends_ite (fun _ => ends_exceptionEntry (h.poised rfl rfl) _ _ _) fun _ => ends_retire h.worked

theorem ends_execMvtc (n : BitVec 2) (reg : BitVec 4) (s : State) : Ends s (execMvtc n reg s) :=
  ends_coprocAccess (fun h => ends_retire (worked_scprWrite _ _ h)) fun _ hr => ends_retire (worked_withHeld _ hr)

theorem ends_execMvfc (n : BitVec 2) (reg : BitVec 4) (s : State) : Ends s (execMvfc n reg s) :=
  ends_coprocAccess (fun _ => ends_retire ((worked_scprRead _ s).trans (worked_writeReg _ _ _))) fun _ _ =>
    ends_retire (worked_writeReg s _ _)

/-! ### SET, CLR and HALT -/

/-- SET and CLR never change the byte order, and outside the system fields none of the system bits. -/
theorem keepsSystemBits_withField {s : State} {field : SrField} (b : Bool) (h : isSystemField field = false) :
    KeepsSystemBits s { s with sr := s.sr.withField field b } := by
  cases field
  case modeHi | modeLo | nmi | int | vi | l => cases h
  all_goals exact ⟨rfl, rfl, rfl, rfl, rfl, rfl, rfl⟩

theorem endian_withField (sr : SR) (field : SrField) (b : Bool) : (sr.withField field b).endian = sr.endian := by
  cases field <;> rfl

theorem ends_changeSrBit (pos : BitVec 4) (b : Bool) (s : State) : Ends s (changeSrBit pos b s) := by
  unfold changeSrBit
  refine ends_ite (fun _ => ends_userSysWrite (ends_retire (.refl s))) fun h => ends_retire ?_
  cases hu : isUser s with
  | true => exact worked_sr (keepsSystemBits_withField b (by simpa [hu] using h))
  | false =>
    exact worked_of_supervisor hu ⟨rfl, endian_withField s.sr _ b, ⟨rfl, rfl⟩, ⟨rfl, rfl⟩, ⟨rfl, rfl⟩⟩ rfl
      fun i => ⟨i.1, i.2, i.3, i.4, i.5, i.6, i.7, i.8⟩

theorem ends_execHalt (n : BitVec 4) (s : State) : Ends s (execHalt n s) := by
  unfold execHalt
  refine ends_ite (fun _ => ends_userSysWrite (ends_retire (.refl s))) fun h => ends_retire ?_
  exact worked_of_supervisor (by simpa using h) (.of_eq (keepsSystemBits_of_sr rfl) rfl rfl rfl rfl) rfl
    fun i => ⟨i.1, i.2, i.3, i.4, i.5, i.6, i.7, i.8⟩

/-! ### The DSP option -/

theorem ends_withDsp {i : Instr} {run : State → Outcome} {s : State} (h : Ends s (run s)) : Ends s (withDsp i run s) :=
  ends_ite (fun _ => h) fun _ => ends_exceptionEntry (poised_latchBackup _ s) _ _ _

theorem ends_finishDsp {s u : State} (h : Worked s u) : Ends s (finishDsp u) :=
  ends_retire (h.trans (worked_drawFlags u))

theorem ends_dspInto (dst : Reg) (r : Word) (s : State) : Ends s (dspInto dst r s) :=
  ends_finishDsp (worked_writeReg s dst r)

theorem ends_unprefixed {run : State → Outcome} {s : State} (h : Ends s (run s)) : Ends s (unprefixed run s) :=
  ends_ite (fun _ => ends_fault s _) fun _ => h

/-! ### Every instruction -/

/-- LERI goes on with the unit: E is set and the unit is one halfword longer. -/
theorem ends_execLeri (imm : BitVec 14) (s : State) : Ends s (execLeri imm s) := by
  intro t ht
  cases ht
  refine .inl ⟨⟨rfl, rfl, ⟨rfl, rfl⟩, ⟨rfl, rfl⟩, ⟨rfl, rfl⟩⟩, rfl, fun i => ?_, fun _ => ?_⟩
  · exact ⟨i.pcEven, i.lrEven, i.sspAligned, i.uspAligned, i.vectorBaseAligned, by simp, i.pendingCode, i.memWf,
      i.ispmWf, i.dspmWf⟩
  · exact ⟨rfl, ⟨rfl, rfl, rfl, rfl, rfl, rfl, rfl⟩, rfl, ⟨_, _, _, _, rfl⟩, fun _ => ⟨rfl, rfl⟩, fun _ => rfl,
      fun _ => rfl, fun _ => rfl⟩

/-- Every meaning completes or enters an exception. -/
theorem ends_exec (i : Instr) (s : State) : Ends s (exec i s) := by
  cases i with
  | leri imm => exact ends_execLeri imm s
  | ldIdx | ldbIdx | ldsIdx | ldbuIdx | ldsuIdx | ldSp | ldbSp | ldsSp | ldbuSp | ldsuSp =>
    exact ends_loadReg _ _ _ _ s
  | stIdx | stbIdx | stsIdx | stSp | stbSp | stsSp => exact ends_storeReg _ _ _ s
  | ldi | lea | lesa | mfml | mfmh | mfcr0 | mfcr1 => exact ends_retire (worked_writeReg s _ _)
  | leaAspo | lsea => exact ends_retire (worked_writeSp s _)
  | mtml | mtmh | mtcr0 | mtcr1 => exact ends_retire (worked_spr rfl rfl rfl)
  | pushLo | pushHi | pushSpec => exact ends_pushList _ _ s
  | popLo | popHi => exact ends_popRegs _ _ s
  | popSpec list =>
    exact ends_ite (fun _ => ends_userSysWrite (ends_popSpecial list s)) fun _ => ends_popSpecial list s
  | jnv | jv | jp | jm | jnz | jz | jnc | jc | jgt | jlt | jge | jle | jhi | jls => exact ends_branchIf _ _ s
  | jmp | jr => exact ends_jumpTo (.refl s) _
  | jal | jalr => exact ends_jumpTo (worked_writeLr s _) _
  | jplr => exact ends_ite (fun _ => ends_jumpTo (.refl s) _) fun _ => ends_fault s _
  | nop => exact ends_ite (fun _ => ends_retire (calm_latchBackup _ s).worked) fun _ => ends_retire (.refl s)
  | swi => exact ends_exceptionEntry (.refl s) _ _ _
  | step | brkpt => exact ends_ite (fun _ => ends_refused s _) fun _ => ends_fault s _
  | halt n => exact ends_execHalt n s
  | set | clr => exact ends_changeSrBit _ _ s
  | sync => exact ends_ite (fun _ => ends_retire (calm_syncStale s).worked) fun _ => ends_fault s _
  | ldau => exact ends_conclude (accTouches_memRead _ _ s) fun _ _ hu =>
    ends_retire (hu.worked.trans ((worked_writeReg _ _ _).trans (worked_stepCounter _ _)))
  | stau => exact ends_conclude (accTouches_memWrite _ _ _ s) fun _ _ hu =>
    ends_retire (hu.worked.trans (worked_stepCounter _ _))
  | cpcmd => exact ends_execCpcmd _ _ s
  | getc => exact ends_execGetc _ _ s
  | execCp => exact ends_execExecCp _ _ s
  | mvtc => exact ends_execMvtc _ _ s
  | mvfc => exact ends_execMvfc _ _ s
  | ldcSp n r => exact ends_coprocLoad n r readSp s
  | ldcIdx n r => exact ends_coprocLoad n r (fun s => readReg s 1) s
  | stcSp n r => exact ends_coprocStore n r readSp s
  | stcIdx n r => exact ends_coprocStore n r (fun s => readReg s 1) s
  | reservedB780 | reservedE1B0 | reservedECC0 | reservedFB80 | reservedFB40 | reservedFB20 | reservedFB10 =>
    exact ends_undefinedInstruction _ s
  | macb | macs =>
    simp only [exec, execMacb, execMacs]
    exact ends_withDsp (ends_finishDsp (worked_writeAccumulators _ s))
  | msopb | msops =>
    have h := (worked_draw s).trans (worked_draw (draw s).2)
    simp only [exec, execMsopb, execMsops]
    exact ends_withDsp (ends_finishDsp (h.trans (worked_spr rfl rfl rfl)))
  | saddb | sadds | sadub | sadus | sadd | avgb | avgs | min | max | upkls | upkhs | upk0lb | upk0hb | upk1lb
  | upk1hb | upk2lb | upk2hb | upk3lb | upk3hb =>
    refine ends_withDsp ?_
    exact ends_dspInto _ _ s
  | mtmre =>
    simp only [exec, execMtmre]
    exact ends_withDsp (ends_retire (worked_spr rfl rfl rfl))
  | mfmre =>
    simp only [exec, execMfmre]
    exact ends_withDsp (ends_retire (worked_writeReg s _ _))
  | mrs | ror | rol =>
    refine ends_withDsp ?_
    exact ends_unprefixed (ends_dspInto _ _ s)
  | abs dst =>
    have h := (worked_draw s).trans (worked_writeReg (draw s).2 dst (draw s).1)
    simp only [exec, execAbs]
    exact ends_withDsp (ends_ite (fun _ => ends_finishDsp h) fun _ => ends_dspInto _ _ s)
  | add | adc | addq => exact ends_addInto _ _ _ s
  | sub | sbc => exact ends_subInto _ _ _ s
  | and | or | xor | not | extb | exts | cvb | cvs => exact ends_finishNz _ _ s
  | cmp | cmpq => exact ends_compareWith _ _ s
  | tst => exact ends_finishFlags ⟨rfl, rfl, rfl, rfl, rfl, rfl, rfl⟩
  | asrImm | lsrImm | aslImm | sslImm | asrReg | lsrReg | aslReg | sslReg => exact ends_shiftInto _ _ _ s
  | mul | mulu => exact ends_retire ((worked_writeProduct _ s).trans (worked_mulRdEffect _ _ _))
  | mac => exact ends_retire (worked_writeProduct _ s)
  | neg => exact ends_retire ((worked_writeReg s _ _).trans (worked_drawFlags _))
  | cnt0 | cnt1 => exact ends_countInto _ _ s

/-! ### Every step -/

theorem poised_inputs (s : State) (env : Env) (events : List Event) :
    Poised s { s with env := env, events := events } := (calm_inputs s env events).poised rfl rfl

theorem completes_consumeBoundary (s : State) : Completes s (consumeBoundary s) :=
  have c := calm_inputs s { s.env with boundaries := s.env.boundaries.tail } s.events
  ⟨c.config, rfl, fun i => (c.dataInv (dataInv_of_machineInv i)).machineInv i.pcEven i.extension,
    fun _ => c.userFrame⟩

/-- The halfword fetched and executed. -/
theorem ends_fetched (s : State) : Ends s (conclude (fetchHalf s) fun w u => exec (decode w) u) :=
  ends_conclude (accTouches_fetchHalf s) fun w u hu => (ends_exec (decode w) u).after hu.completes hu.accessed.poised

theorem ends_takeInt (number : Word) (s : State) : Ends s (takeInt number s) := by
  unfold takeInt
  refine ends_ite (fun _ => ends_ite (fun _ => ?_) fun _ => ends_fault s _) fun _ => ?_
  · exact ends_exceptionEntry (poised_inputs s _ _) _ _ _
  · exact ends_exceptionEntry (poised_inputs s _ _) _ _ _

/-- What a boundary brings, but for Reset, and what is run after it. -/
def afterSample : Sampled → Outcome
  | .done o => o
  | .run s => conclude (fetchHalf s) fun w s => exec (decode w) s

theorem step_eq_afterSample (s : State) : step s = afterSample (boundary s) := by
  unfold step afterSample
  cases boundary s <;> rfl

theorem afterSample_ite {p : Prop} [Decidable p] (a b : Sampled) :
    afterSample (if p then a else b) = if p then afterSample a else afterSample b := by
  split <;> rfl

theorem ends_afterSample_sample {b : Boundary} {s : State} (hb : b.resetReq = false) :
    Ends s (afterSample (sample b s)) := by
  have stays : Ends s (.next s) := fun t ht => by cases ht; exact .inl (Touched.refl s).completes
  unfold sample
  rw [hb]
  simp only [afterSample_ite]
  refine ends_ite (fun h => nomatch h) fun _ => ?_
  refine ends_ite (fun _ => stays) fun _ => ?_
  refine ends_ite (fun _ => ends_fault s _) fun _ => ?_
  refine ends_ite (fun _ => ends_exceptionEntry (.refl s) _ _ _) fun _ => ?_
  refine ends_ite (fun _ => ends_takeInt _ s) fun _ => ?_
  exact ends_ite (fun _ => stays) fun _ => ends_fetched s

/-- All a step can answer with a next state: what a Reset leaves, or a completed unit, or an exception entry. -/
theorem step_next {s t : State} (h : step s = .next t) :
    ((requestNow s).resetReq = true ∧ resetEvent (consumeBoundary s) = .next t) ∨ Completes s t ∨ Enters s t := by
  rw [step_eq_afterSample] at h
  unfold boundary at h
  split at h
  · rw [afterSample_ite] at h
    exact .inr (ends_ite (fun _ => ends_fault s _) (fun _ => ends_fetched s) t h)
  · cases hb : (requestNow s).resetReq with
    | true =>
      rw [sample, if_pos hb] at h
      exact .inl ⟨rfl, h⟩
    | false =>
      exact .inr (((ends_afterSample_sample hb).after (completes_consumeBoundary s)
        (poised_inputs s _ s.events)) t h)

/-! ### What an entry leaves -/

/-- An entry that is no lockup ends in supervisor mode with one frame more on its stack. -/
theorem enters_cases {s t : State} (h : Enters s t) : ∃ u, Poised s u ∧
    ((∃ kind handler, t = enterHandler kind handler u) ∨ t = lockUp u) := by
  obtain ⟨v, off, pc, kind, hv, he⟩ := h
  obtain ⟨u, hu, h | h⟩ := exceptionEntry_next he
  · obtain ⟨handler, h⟩ := h
    exact ⟨u, hv.trans hu.poised, .inl ⟨kind, handler, h⟩⟩
  · exact ⟨u, hv.trans hu.poised, .inr h⟩

theorem sub_frame_aligned {a : Word} (h : a.extractLsb' 0 2 = 0) : (a - 8).extractLsb' 0 2 = 0 := by
  rw [extract_two_iff] at *
  bv_omega

theorem Enters.machineInv {s t : State} (h : Enters s t) (i : MachineInv s) : MachineInv t := by
  obtain ⟨u, hu, ⟨kind, handler, rfl⟩ | rfl⟩ := enters_cases h
  · have j := hu.inv (dataInv_of_machineInv i)
    exact DataInv.jumpTo (s := { u with
      halted := false, sr := entrySr kind u.sr, spr := { u.spr with ssp := u.spr.ssp - 8 } })
      ⟨j.1, sub_frame_aligned j.2, j.3, j.4, j.5, j.6, j.7, j.8⟩ handler
  · have j := hu.inv (dataInv_of_machineInv i)
    exact DataInv.machineInv (s := lockUp u) ⟨j.1, j.2, j.3, j.4, j.5, j.6, j.7, j.8⟩
      (hu.pc.symm ▸ i.pcEven) (by simp)

theorem Enters.config {s t : State} (h : Enters s t) : SameConfiguration s t := by
  obtain ⟨u, hu, ⟨kind, handler, rfl⟩ | rfl⟩ := enters_cases h
  · exact ⟨hu.config.cfg, hu.config.endian, hu.config.cp1, hu.config.cp2, hu.config.cp3⟩
  · exact ⟨hu.config.cfg, hu.config.endian, hu.config.cp1, hu.config.cp2, hu.config.cp3⟩

/-- An entry from user mode that stays in user mode is a lockup. -/
theorem Enters.lockup_of_user {s t : State} (h : Enters s t) (ht : isUser t = true) : t.lockup = true := by
  obtain ⟨u, hu, ⟨kind, handler, rfl⟩ | rfl⟩ := enters_cases h
  · cases ht
  · rfl

/-! ### What a Reset leaves -/

theorem resetEvent_machineInv {s t : State} (h : resetEvent s = .next t) (i : DataInv s) : MachineInv t := by
  obtain ⟨vector, rfl⟩ := resetEvent_next h
  refine DataInv.machineInv ⟨?_, ?_, ?_, ?_, ?_, i.memWf, wf_resetState_ispmMem s, wf_resetState_dspmMem s⟩
    (getLsbD_zero_and_even vector) ?_
  · exact getLsbD_zero_and_even _
  · exact extract_and_aligned _
  · simp [resetSprs]
  · simp [resetScp]
  · simp [resetScp]
  · simp [resetSr]

/-! ### The statements about every step -/

/-- Settles O6: a Reset establishes the invariant, and a completed unit and an entry keep it. -/
theorem stepKeepsInvariant : Obligations.StepKeepsInvariant := by
  unfold Obligations.StepKeepsInvariant
  intro s t hs h
  rcases step_next h with ⟨_, h⟩ | h | h
  · exact resetEvent_machineInv h (dataInv_of_machineInv ((completes_consumeBoundary s).inv hs))
  · exact h.inv hs
  · exact h.machineInv hs

/-- Settles O7: in user mode and out of lockup a step is neither a Reset nor an entry, so it is a completed
unit. -/
theorem userStepKeepsSupervisorState : Obligations.UserStepKeepsSupervisorState := by
  unfold Obligations.UserStepKeepsSupervisorState
  intro s t hs h ht hl
  rcases step_next h with ⟨_, h⟩ | h | h
  · obtain ⟨vector, rfl⟩ := resetEvent_next h
    cases ht
  · have f := h.user hs
    exact ⟨f.ssp, f.systemBits, h.config.cfg, f.halted, f.scp, f.tlb, f.cp1, f.cp2, f.cp3⟩
  · have := h.lockup_of_user ht
    simp [hl] at this

/-- Settles O8: a completed unit and a lockup stay in user mode; what is left is a Reset or an entered handler. -/
theorem userModeLeftOnlyByEntry : Obligations.UserModeLeftOnlyByEntry := by
  unfold Obligations.UserModeLeftOnlyByEntry
  intro s t hs h ht
  rcases step_next h with ⟨hr, h⟩ | h | h
  · obtain ⟨vector, rfl⟩ := resetEvent_next h
    exact ⟨rfl, rfl, rfl, rfl, rfl, fun _ => rfl, fun h => by simp [hr] at h⟩
  · rw [isUser_of_keepsSystemBits (h.user hs).systemBits, hs] at ht
    cases ht
  · obtain ⟨u, hu, ⟨kind, handler, rfl⟩ | rfl⟩ := enters_cases h
    · exact ⟨rfl, rfl, rfl, rfl, rfl, fun hl => hu.lockup.trans hl, fun _ => by simp [hu.spr]⟩
    · have : isUser u = true := (isUser_of_keepsSystemBits hu.systemBits).trans hs
      rw [show isUser (lockUp u) = isUser u from rfl, this] at ht
      cases ht

/-- Settles O9: a Reset, a completed unit and an entry each keep the configuration. -/
theorem stepKeepsConfiguration : Obligations.StepKeepsConfiguration := by
  unfold Obligations.StepKeepsConfiguration
  intro s t h
  have hc : SameConfiguration s t := by
    rcases step_next h with ⟨_, h⟩ | h | h
    · obtain ⟨vector, rfl⟩ := resetEvent_next h
      exact ⟨rfl, rfl, ⟨rfl, rfl⟩, ⟨rfl, rfl⟩, ⟨rfl, rfl⟩⟩
    · exact h.config
    · exact h.config
  exact ⟨hc.cfg, hc.endian, hc.cp1.present, hc.cp1.supervisorOnly, hc.cp2.present, hc.cp2.supervisorOnly,
    hc.cp3.present, hc.cp3.supervisorOnly⟩

/-- Settles O5: every field of the invariant is a closed fact about the reset state. -/
theorem resetHasInvariant : Obligations.ResetHasInvariant := by
  unfold Obligations.ResetHasInvariant
  constructor <;> decide

end Sys2Proof.Machine

/-! SUPPORT. Operands, LERI and moves (30_encoding.md R208 to R213, 41_move.md R300 to R305): what the operand
functions give as numbers, and what a unit that only writes a register or the stack pointer leaves. -/

namespace Sys2Proof.Machine

open Sys2Proof.Safety

/-! ### Fields as numbers -/

/-- A field with room for the scaling is scaled without a carry out. -/
theorem zext_shift_toNat {n : Nat} (g : BitVec n) {k : Nat} (h : n + k ≤ 32) :
    (zext g <<< k).toNat = g.toNat * 2 ^ k := by
  have hg : g.toNat * 2 ^ k < 2 ^ 32 := calc
    g.toNat * 2 ^ k < 2 ^ n * 2 ^ k := Nat.mul_lt_mul_of_pos_right g.isLt (by positivity)
    _ = 2 ^ (n + k) := (pow_add 2 n k).symm
    _ ≤ 2 ^ 32 := Nat.pow_le_pow_right two_pos h
  unfold zext
  rw [BitVec.toNat_shiftLeft, BitVec.toNat_setWidth_of_le (by omega), Nat.shiftLeft_eq, Nat.mod_eq_of_lt hg]

theorem zext_toNat {n : Nat} (g : BitVec n) (h : n ≤ 32) : (zext g).toNat = g.toNat :=
  BitVec.toNat_setWidth_of_le h

theorem sext_toInt {n : Nat} (g : BitVec n) (h : n ≤ 32) : (sext g).toInt = g.toInt :=
  BitVec.toInt_signExtend_of_le h

/-- A signed byte scaled by at most 2^2 stays in range. -/
theorem sext_shift_toInt (f : BitVec 8) {k : Nat} (hk : k ≤ 2) : (sext f <<< k).toInt = f.toInt * 2 ^ k := by
  have hlo := BitVec.le_toInt f
  have hhi := BitVec.toInt_lt (x := f)
  have shifted : (sext f <<< k).toInt = ((sext f).toInt * 2 ^ k).bmod (2 ^ 32) := by
    rw [BitVec.toInt_shiftLeft, Nat.shiftLeft_eq, BitVec.toInt_eq_toNat_bmod (sext f)]
    push_cast
    exact (Int.bmod_mul_bmod).symm
  rw [shifted, sext_toInt f (by decide)]
  apply Int.bmod_eq_of_le <;> interval_cases k <;> omega

/-! ### The operand functions, with and without a LERI -/

theorem scaledField_plain {n : Nat} {s : State} (f : BitVec n) (k : Nat) (plain : Word) (h : s.sr.e = false) :
    scaledField s f k plain = plain := by
  simp [scaledField, h]

theorem scaledField_low4_toNat {n : Nat} {s : State} (f : BitVec n) {k : Nat} (plain : Word) (h : s.sr.e = true)
    (hr : s.cfg.extOffsetRule = .low4) (hk : n + k ≤ 32) :
    (scaledField s f k plain).toNat = (s.spr.er.toNat * 16 + f.toNat * 2 ^ k % 16) % 2 ^ 32 := by
  simp only [scaledField, h, hr, if_true]
  rw [extendLow4_toNat, zext_shift_toNat f hk]

theorem scaledField_full_toNat {n : Nat} {s : State} (f : BitVec n) (k : Nat) (plain : Word) (h : s.sr.e = true)
    (hr : s.cfg.extOffsetRule = .full) (hn : n ≤ 32) :
    (scaledField s f k plain).toNat = (s.spr.er.toNat * 2 ^ n + f.toNat) % 2 ^ 32 := by
  simp only [scaledField, h, hr, if_true]
  rw [toNat_shift_or _ _ n (by rw [zext_toNat f hn]; exact f.isLt) hn, zext_toNat f hn]

theorem srcImm_toNat {s : State} (f : Reg) (h : s.sr.e = true) :
    (srcImm s f).toNat = (s.spr.er.toNat * 16 + f.toNat) % 2 ^ 32 := by
  have hf : f.toNat % 16 = f.toNat := Nat.mod_eq_of_lt f.isLt
  simp only [srcImm, h, if_true]
  rw [extendLow4_toNat, zext_toNat f (by decide), hf]

theorem branchDisp_toNat {s : State} (off : BitVec 8) (h : s.sr.e = true) :
    (branchDisp s off).toNat = (s.spr.er.toNat * 512 + off.toNat * 2) % 2 ^ 32 := by
  have hoff : (zext off).toNat < 2 ^ 8 := by rw [zext_toNat off (by decide)]; exact off.isLt
  simp only [branchDisp, h, if_true]
  rw [BitVec.toNat_shiftLeft, toNat_shift_or _ _ 8 hoff (by decide), zext_toNat off (by decide), Nat.shiftLeft_eq]
  omega

/-- Settles O11: without E a field is its own extension, scaled; with E it stands below ER. -/
theorem operandForms : Obligations.OperandForms := by
  unfold Obligations.OperandForms
  intro s f imm n g k
  refine ⟨fun h => ⟨by simp [srcImm, h], by simp [erImm, h], ?_, ?_, ?_, fun hk => ?_⟩,
    fun h => ⟨srcImm_toNat f h, by simp [erImm, h], branchDisp_toNat imm h, fun hr hk => ?_, fun hr hn => ?_,
      fun hr => ⟨?_, ?_⟩, fun hr => ⟨?_, ?_⟩⟩⟩
  · rw [ldiImm, scaledField_plain _ _ _ h, sext_toInt imm (by decide)]
  · rw [aspoImm, scaledField_plain _ _ _ h, sext_shift_toInt imm le_rfl]
    omega
  · simp only [branchDisp, h, Bool.false_eq_true, if_false]
    rw [sext_shift_toInt imm (by decide)]
    omega
  · rw [offsetImm, scaledField_plain _ _ _ h, zext_shift_toNat g hk]
  · exact scaledField_low4_toNat g _ h hr hk
  · exact scaledField_full_toNat g k _ h hr hn
  · rw [ldiImm, scaledField_low4_toNat imm _ h hr (by decide), Nat.pow_zero, Nat.mul_one]
  · exact scaledField_low4_toNat imm (k := 2) _ h hr (by decide)
  · exact scaledField_full_toNat imm 0 _ h hr (by decide)
  · exact scaledField_full_toNat imm 2 _ h hr (by decide)

/-! ### LERI -/

/-- What LERI leaves in ER (R300). -/
def leriValue (imm : BitVec 14) (s : State) : Word := if s.sr.e then (s.spr.er <<< 14) ||| zext imm else sext imm

/-- What LERI leaves: ER loaded, E set, and a unit one halfword longer. -/
def afterLeri (imm : BitVec 14) (s : State) : State :=
  { s with leris := s.leris + 1, sr := { s.sr with e := true }, spr := { s.spr with er := leriValue imm s } }

theorem exec_leri (imm : BitVec 14) (s : State) : exec (.leri imm) s = .next (afterLeri imm s) := rfl

theorem sameAround_afterLeri (imm : BitVec 14) (s : State) : SameAround s (afterLeri imm s) :=
  ⟨rfl, rfl, rfl, ⟨rfl, rfl, rfl, rfl, rfl, rfl, rfl⟩, rfl, ⟨rfl, rfl, rfl⟩, ⟨rfl, rfl, rfl, rfl, rfl⟩, rfl⟩

theorem leriValue_first_toInt (imm : BitVec 14) {s : State} (h : s.sr.e = false) :
    (leriValue imm s).toInt = imm.toInt := by
  simp only [leriValue, h, Bool.false_eq_true, if_false]
  exact sext_toInt imm (by decide)

theorem leriValue_next_toNat (imm : BitVec 14) {s : State} (h : s.sr.e = true) :
    (leriValue imm s).toNat = (s.spr.er.toNat * 2 ^ 14 + imm.toNat) % 2 ^ 32 := by
  have hi : (zext imm).toNat < 2 ^ 14 := by rw [zext_toNat imm (by decide)]; exact imm.isLt
  simp only [leriValue, h, if_true]
  rw [toNat_shift_or _ _ 14 hi (by decide), zext_toNat imm (by decide)]

/-- Settles O12: LERI is one update of ER, E and the length of the unit. -/
theorem leriExtends : Obligations.LeriExtends := by
  unfold Obligations.LeriExtends
  intro imm s
  exact ⟨_, exec_leri imm s, leriValue_first_toInt imm, leriValue_next_toNat imm, rfl, rfl, rfl, rfl,
    keepsGprs_of_gpr rfl [], (sameAround_afterLeri imm s).keepsRest⟩

/-! ### Two LERIs and LDI -/

/-- The two LERIs that give a constant its bits 31:4. -/
def twoLeris (v : Word) (s : State) : State := afterLeri (v.extractLsb' 4 14) (afterLeri (v.extractLsb' 18 14) s)

/-- The 14 bits of the first LERI, the 14 of the second and the 4 of LDI are the constant: the bits that the
sign of the first extends to are shifted out. -/
theorem ldiImm_twoLeris (v : Word) {s : State} (he : s.sr.e = false) (hr : s.cfg.extOffsetRule = .low4) :
    ldiImm (twoLeris v s) ((v.extractLsb' 0 4).setWidth 8) = v := by
  have hv := v.isLt
  have first : (leriValue (v.extractLsb' 18 14) s).toNat % 2 ^ 14 = v.toNat / 2 ^ 18 := by
    have hs := leriValue_first_toInt (v.extractLsb' 18 14) he
    rw [BitVec.toInt_eq_toNat_cond, BitVec.toInt_eq_toNat_cond, toNat_extract] at hs
    split at hs <;> split at hs <;> omega
  have second : (twoLeris v s).spr.er.toNat
      = ((leriValue (v.extractLsb' 18 14) s).toNat * 2 ^ 14 + v.toNat / 2 ^ 4 % 2 ^ 14) % 2 ^ 32 := by
    rw [← toNat_extract]
    exact leriValue_next_toNat (s := afterLeri (v.extractLsb' 18 14) s) (v.extractLsb' 4 14) rfl
  have third := scaledField_low4_toNat (s := twoLeris v s) ((v.extractLsb' 0 4).setWidth 8) (k := 0)
    (sext ((v.extractLsb' 0 4).setWidth 8)) rfl hr (by decide)
  rw [BitVec.toNat_setWidth, toNat_extract] at third
  apply BitVec.eq_of_toNat_eq
  rw [ldiImm, third]
  omega

/-- Settles O13: each LERI is one update, LDI writes the operand they leave, and the unit is three halfwords. -/
theorem twoPrefixesLoadAnyConstant : Obligations.TwoPrefixesLoadAnyConstant := by
  unfold Obligations.TwoPrefixesLoadAnyConstant
  intro v dst s he hl hr
  obtain ⟨w, hw, ⟨hreg, hgprs, hspr, hrest, hends⟩, hflags⟩ := writesReg_of_exec (s := twoLeris v s)
    (i := .ldi dst ((v.extractLsb' 0 4).setWidth 8)) rfl
  refine ⟨_, _, w, exec_leri _ s, exec_leri _ _, hw, hreg.trans (ldiImm_twoLeris v he hr), hgprs, hflags, hrest,
    by rw [hspr]; rfl, ?_⟩
  have next : nextAddr (twoLeris v s) = s.pc + 6 := by
    simp [nextAddr, fetchAddr, twoLeris, afterLeri, hl, BitVec.add_assoc]
  rwa [next] at hends

/-! ### Immediates, addresses and the stack pointer -/

/-- The special registers after the stack pointer of the mode is written. -/
theorem writeSp_eq (s : State) (v : Word) : writeSp s v = { s with
    spr := if isUser s then { s.spr with usp := v &&& 0xFFFFFFFC } else { s.spr with ssp := v &&& 0xFFFFFFFC } } := by
  unfold writeSp
  split <;> rfl

/-- An instruction that writes the stack pointer of the mode and retires. -/
theorem writesSp_of_exec {i : Instr} {s : State} {v : Word} (h : exec i s = .next (retire (writeSp s v))) :
    ∃ t, exec i s = .next t ∧ KeepsFlags s t
      ∧ (isUser s = true → WritesSpecial s t { s.spr with usp := v &&& 0xFFFFFFFC })
      ∧ (isUser s = false → WritesSpecial s t { s.spr with ssp := v &&& 0xFFFFFFFC })
      ∧ (readSp t).toNat = v.toNat / 4 * 4 := by
  refine ⟨_, h, keepsFlags_retire (by rw [writeSp_eq]), fun hu => ?_, fun hu => ?_, ?_⟩
  · rw [writeSp_eq, hu]
    exact writesSpecial_retire rfl (sameAround_spr s _) rfl
  · rw [writeSp_eq, hu]
    exact writesSpecial_retire rfl (sameAround_spr s _) rfl
  · rw [show readSp (retire (writeSp s v)) = readSp (writeSp s v) from rfl, readSp_writeSp, and_stackMask_toNat]

/-- Settles O14: each move writes one general register or the stack pointer of the mode and retires. -/
theorem immediateAndAddressMoves : Obligations.ImmediateAndAddressMoves := by
  unfold Obligations.ImmediateAndAddressMoves
  intro s dst idx imm
  simp only [List.forall_mem_cons, List.not_mem_nil, IsEmpty.forall_iff, implies_true, and_true]
  exact ⟨⟨writesReg_of_exec rfl, writesReg_of_exec rfl, writesReg_of_exec rfl⟩,
    writesSp_of_exec rfl, writesSp_of_exec rfl⟩

end Sys2Proof.Machine

/-! SUPPORT. Arithmetic, logic, shifts, multiplication and extension (43_arith_logic.md): what a unit that ends
in a result and its flags leaves, and the results as numbers. -/

namespace Sys2Proof.Machine

open Sys2Proof.Safety

/-! ### Units that end in a result and flags -/

theorem keepsSystemBits_flagsAdd (a b : Word) (c : Bool) (s : State) :
    KeepsSystemBits s { s with sr := flagsAdd a b c s.sr } := ⟨rfl, rfl, rfl, rfl, rfl, rfl, rfl⟩

theorem keepsSystemBits_flagsSub (a b : Word) (c : Bool) (s : State) :
    KeepsSystemBits s { s with sr := flagsSub a b c s.sr } := ⟨rfl, rfl, rfl, rfl, rfl, rfl, rfl⟩

theorem keepsSystemBits_flagsNz (r : Word) (s : State) :
    KeepsSystemBits s { s with sr := flagsNz r s.sr } := ⟨rfl, rfl, rfl, rfl, rfl, rfl, rfl⟩

/-- A unit that writes one register and flags. -/
theorem writesReg_finishAlu {dst : Reg} {r : Word} {sr : SR} {s : State}
    (h : KeepsSystemBits s { s with sr := sr }) : ∃ t, finishAlu dst r sr s = .next t ∧ WritesReg s t dst r
      ∧ t.sr = { sr with e := false } :=
  ⟨_, rfl, writesReg_retire dst r rfl rfl (sameAround_sr h) rfl, rfl⟩

/-- A unit that writes flags alone. -/
theorem writesSpecial_finishFlags {sr : SR} {s : State} (h : KeepsSystemBits s { s with sr := sr }) :
    ∃ t, finishFlags sr s = .next t ∧ WritesSpecial s t s.spr ∧ t.sr = { sr with e := false } :=
  ⟨_, rfl, writesSpecial_retire (u := { s with sr := sr }) rfl (sameAround_sr h) rfl, rfl⟩

theorem addInto_next (dst : Reg) (b : Word) (c : Bool) (s : State) :
    ∃ t v, addInto dst b c s = .next t ∧ WritesReg s t dst v
      ∧ v.toNat = ((readReg s dst).toNat + b.toNat + c.toNat) % 2 ^ 32 ∧ AddFlags t.sr (readReg s dst) b c := by
  obtain ⟨t, ht, hw, hsr⟩ := writesReg_finishAlu (dst := dst) (r := addResult (readReg s dst) b c)
    (keepsSystemBits_flagsAdd (readReg s dst) b c s)
  refine ⟨t, _, ht, hw, addResult_toNat _ _ _, ?_⟩
  rw [hsr]
  exact addFlags_flagsAdd _ _ _ s.sr

theorem subInto_next (dst : Reg) (b : Word) (c : Bool) (s : State) :
    ∃ t v, subInto dst b c s = .next t ∧ WritesReg s t dst v
      ∧ (v.toNat : Int) = ((readReg s dst).toNat - b.toNat - c.toNat : Int) % 2 ^ 32
      ∧ SubFlags t.sr (readReg s dst) b c := by
  obtain ⟨t, ht, hw, hsr⟩ := writesReg_finishAlu (dst := dst) (r := subResult (readReg s dst) b c)
    (keepsSystemBits_flagsSub (readReg s dst) b c s)
  refine ⟨t, _, ht, hw, subResult_toNat _ _ _, ?_⟩
  rw [hsr]
  exact subFlags_flagsSub _ _ _ s.sr

theorem compareWith_next (r : Reg) (b : Word) (s : State) :
    ∃ t, compareWith r b s = .next t ∧ WritesSpecial s t s.spr ∧ SubFlags t.sr (readReg s r) b false := by
  obtain ⟨t, ht, hw, hsr⟩ := writesSpecial_finishFlags (keepsSystemBits_flagsSub (readReg s r) b false s)
  refine ⟨t, ht, hw, ?_⟩
  rw [hsr]
  exact subFlags_flagsSub _ _ _ s.sr

theorem finishNz_next (dst : Reg) (r : Word) (s : State) :
    ∃ t, finishNz dst r s = .next t ∧ WritesReg s t dst r ∧ NzFlags t.sr r ∧ t.sr.c = s.sr.c ∧ t.sr.v = s.sr.v := by
  obtain ⟨t, ht, hw, hsr⟩ := writesReg_finishAlu (dst := dst) (r := r) (keepsSystemBits_flagsNz r s)
  refine ⟨t, ht, hw, ?_⟩
  rw [hsr]
  exact ⟨nzFlags_flagsNz r s.sr, rfl, rfl⟩

/-- Settles O16: the three are `addInto` of their operand and carry. -/
theorem addInstructions : Obligations.AddInstructions := by
  unfold Obligations.AddInstructions
  intro s dst src imm
  simp only [List.forall_mem_cons, List.not_mem_nil, IsEmpty.forall_iff, implies_true, and_true]
  exact ⟨addInto_next _ _ _ s, addInto_next _ _ _ s, addInto_next _ _ _ s⟩

/-- Settles O17: the two are `subInto` of their operand and borrow. -/
theorem subtractInstructions : Obligations.SubtractInstructions := by
  unfold Obligations.SubtractInstructions
  intro s dst src
  simp only [List.forall_mem_cons, List.not_mem_nil, IsEmpty.forall_iff, implies_true, and_true]
  exact ⟨subInto_next _ _ _ s, subInto_next _ _ _ s⟩

/-- Settles O18: both are `compareWith` of their operand. -/
theorem compareInstructions : Obligations.CompareInstructions := by
  unfold Obligations.CompareInstructions
  intro s dst src imm
  simp only [List.forall_mem_cons, List.not_mem_nil, IsEmpty.forall_iff, implies_true, and_true]
  exact ⟨compareWith_next _ _ s, compareWith_next _ _ s⟩

/-- Settles O19: four end in a result with Z and S from it, TST in the flags alone. -/
theorem logicInstructions : Obligations.LogicInstructions := by
  unfold Obligations.LogicInstructions
  intro s dst src
  simp only [List.forall_mem_cons, List.not_mem_nil, IsEmpty.forall_iff, implies_true, and_true]
  refine ⟨⟨finishNz_next _ _ s, finishNz_next _ _ s, finishNz_next _ _ s, finishNz_next _ _ s⟩, ?_⟩
  obtain ⟨t, ht, hw, hsr⟩ := writesSpecial_finishFlags (keepsSystemBits_flagsNz (readReg s dst &&& srcImm s src) s)
  refine ⟨t, ht, hw, ?_⟩
  rw [hsr]
  exact ⟨nzFlags_flagsNz _ s.sr, rfl, rfl⟩

/-! ### Shifts -/

theorem shiftResult_asr_toInt (a : Word) (n : Nat) : (shiftResult .asr a n).toInt = a.toInt / 2 ^ n := by
  rw [shiftResult, BitVec.toInt_sshiftRight, Int.shiftRight_eq_div_pow]
  norm_cast

theorem shiftResult_lsr_toNat (a : Word) (n : Nat) : (shiftResult .lsr a n).toNat = a.toNat / 2 ^ n := by
  rw [shiftResult, BitVec.toNat_ushiftRight, Nat.shiftRight_eq_div_pow]

theorem shiftResult_asl_toNat (a : Word) (n : Nat) : (shiftResult .asl a n).toNat = a.toNat * 2 ^ n % 2 ^ 32 := by
  rw [shiftResult, BitVec.toNat_shiftLeft, Nat.shiftLeft_eq]

theorem shiftResult_ssl_toNat (a : Word) {n : Nat} (hn : n < 32) :
    (shiftResult .ssl a n).toNat = (a.toNat * 2 ^ n + (2 ^ n - 1)) % 2 ^ 32 := by
  have hlt : 2 ^ n < 2 ^ 32 := Nat.pow_lt_pow_right (by decide) hn
  have hpos : 0 < 2 ^ n := by positivity
  have ones : (((1 <<< n : Nat) : Word) - 1).toNat = 2 ^ n - 1 := by
    have bit : ((1 <<< n : Nat) : Word).toNat = 2 ^ n := by
      rw [Nat.one_shiftLeft]
      exact (BitVec.toNat_ofNat (2 ^ n) 32).trans (Nat.mod_eq_of_lt hlt)
    rw [BitVec.toNat_sub_of_le (BitVec.le_def.mpr (by rw [bit]; exact hpos)), bit]
    rfl
  rw [shiftResult, toNat_shift_or a _ n (by rw [ones]; omega) (by omega), ones]

/-- The four shifts by one amount. -/
theorem shifts_next (dst : Reg) (amt : BitVec 5) (s : State) :
    (∃ t v, shiftInto .asr dst amt s = .next t ∧ WritesReg s t dst v
        ∧ v.toInt = (readReg s dst).toInt / 2 ^ amt.toNat
        ∧ NzFlags t.sr v ∧ t.sr.v = s.sr.v ∧ (0 < amt.toNat → t.sr.c = (readReg s dst).getLsbD (amt.toNat - 1)))
      ∧ (∃ t v, shiftInto .lsr dst amt s = .next t ∧ WritesReg s t dst v
        ∧ v.toNat = (readReg s dst).toNat / 2 ^ amt.toNat
        ∧ NzFlags t.sr v ∧ t.sr.v = s.sr.v ∧ (0 < amt.toNat → t.sr.c = (readReg s dst).getLsbD (amt.toNat - 1)))
      ∧ (∃ t v, shiftInto .asl dst amt s = .next t ∧ WritesReg s t dst v
        ∧ v.toNat = (readReg s dst).toNat * 2 ^ amt.toNat % 2 ^ 32
        ∧ NzFlags t.sr v ∧ t.sr.v = s.sr.v ∧ (0 < amt.toNat → t.sr.c = (readReg s dst).getLsbD (32 - amt.toNat)))
      ∧ (∃ t v, shiftInto .ssl dst amt s = .next t ∧ WritesReg s t dst v
        ∧ v.toNat = ((readReg s dst).toNat * 2 ^ amt.toNat + (2 ^ amt.toNat - 1)) % 2 ^ 32
        ∧ NzFlags t.sr v ∧ t.sr.v = s.sr.v
        ∧ (0 < amt.toNat → t.sr.c = (readReg s dst).getLsbD (32 - amt.toNat))) := by
  refine ⟨?_, ?_, ?_, ?_⟩
  · obtain ⟨t, ht, hw, h⟩ := shiftInto_next .asr dst amt s
    exact ⟨t, _, ht, hw, shiftResult_asr_toInt _ _, h⟩
  · obtain ⟨t, ht, hw, h⟩ := shiftInto_next .lsr dst amt s
    exact ⟨t, _, ht, hw, shiftResult_lsr_toNat _ _, h⟩
  · obtain ⟨t, ht, hw, h⟩ := shiftInto_next .asl dst amt s
    exact ⟨t, _, ht, hw, shiftResult_asl_toNat _ _, h⟩
  · obtain ⟨t, ht, hw, h⟩ := shiftInto_next .ssl dst amt s
    exact ⟨t, _, ht, hw, shiftResult_ssl_toNat _ amt.isLt, h⟩

theorem shiftAmount_toNat (s : State) (r : Reg) : (shiftAmount s r).toNat = (readReg s r).toNat % 32 := by
  simp [shiftAmount]

/-- Settles O20: the immediate forms shift by their field, the register forms by the low five bits of theirs. -/
theorem shiftInstructions : Obligations.ShiftInstructions := by
  unfold Obligations.ShiftInstructions
  intro s dst r amt
  simp only [List.forall_mem_cons, List.not_mem_nil, IsEmpty.forall_iff, implies_true, and_true]
  refine ⟨shifts_next dst amt s, ?_⟩
  rw [← shiftAmount_toNat]
  exact shifts_next dst (shiftAmount s r) s

/-! ### Multiplication -/

theorem signedProduct_toNat (a b : Word) : ((signedProduct a b).toNat : Int) = a.toInt * b.toInt % 2 ^ 64 := by
  rw [signedProduct, BitVec.toNat_ofInt]
  exact Int.toNat_of_nonneg (Int.emod_nonneg _ (by decide))

theorem unsignedProduct_toNat (a b : Word) :
    ((unsignedProduct a b).toNat : Int) = (a.toNat * b.toNat : Int) % 2 ^ 64 := by
  rw [unsignedProduct, BitVec.toNat_ofNat]
  norm_cast

theorem evenReg_ne_oddReg (d : BitVec 3) : evenReg d ≠ oddReg d := by
  revert d
  decide

theorem sameAround_mulRdEffect (d : BitVec 3) (p : BitVec 64) (s : State) : SameAround s (mulRdEffect d p s) := by
  constructor <;> simp [KeepsSystemBits, KeepsCoprocs, KeepsPlatform]

theorem keepsGprs_writeReg {s : State} {r : Reg} {l : List Reg} (h : r ∈ l) (v : Word) :
    KeepsGprs s (writeReg s r v) l :=
  fun _ hq => readReg_writeReg_other v fun e => hq (e ▸ h)

theorem keepsGprs_trans {s t u : State} {l : List Reg} (h : KeepsGprs s t l) (k : KeepsGprs t u l) :
    KeepsGprs s u l := fun r hr => (k r hr).trans (h r hr)

/-- The two registers of a pair are written. -/
theorem keepsGprs_writePair {s u : State} (h : u.gpr = s.gpr) (d : BitVec 3) (v w : Word) :
    KeepsGprs s (writeReg (writeReg u (evenReg d) v) (oddReg d) w) [evenReg d, oddReg d] :=
  keepsGprs_trans (keepsGprs_of_gpr h _) (keepsGprs_trans (keepsGprs_writeReg (by simp) v)
    (keepsGprs_writeReg (by simp) w))

/-- What `MUL_RD_RESULT` says of the pair of a product. -/
theorem mulRdEffect_gprs (d : BitVec 3) (p : BitVec 64) (s : State) :
    KeepsGprs s (mulRdEffect d p s) [evenReg d, oddReg d]
      ∧ (s.cfg.mulRdResult = .unchanged → KeepsGprs s (mulRdEffect d p s) [])
      ∧ (s.cfg.mulRdResult = .low32 → KeepsGprs s (mulRdEffect d p s) [evenReg d]
        ∧ readReg (mulRdEffect d p s) (evenReg d) = p.extractLsb' 0 32)
      ∧ (s.cfg.mulRdResult = .pair → readReg (mulRdEffect d p s) (evenReg d) = p.extractLsb' 0 32
        ∧ readReg (mulRdEffect d p s) (oddReg d) = p.extractLsb' 32 32) := by
  unfold mulRdEffect
  cases s.cfg.mulRdResult
  case unspecified => exact ⟨keepsGprs_writePair rfl d _ _, nofun, nofun, nofun⟩
  case unchanged => exact ⟨keepsGprs_of_gpr rfl _, fun _ => keepsGprs_of_gpr rfl _, nofun, nofun⟩
  case low32 =>
    exact ⟨keepsGprs_writeReg (by simp) _, nofun,
      fun _ => ⟨keepsGprs_writeReg (by simp) _, readReg_writeReg_same _ _ _⟩, nofun⟩
  case pair =>
    exact ⟨keepsGprs_writePair rfl d _ _, nofun, nofun, fun _ =>
      ⟨(readReg_writeReg_other _ (evenReg_ne_oddReg d)).trans (readReg_writeReg_same _ _ _),
        readReg_writeReg_same _ _ _⟩⟩

/-- A unit that leaves a product in MH:ML, and in the pair what `MUL_RD_RESULT` says. -/
theorem product_of_exec {i : Instr} {d : BitVec 3} {p : BitVec 64} {s : State}
    (h : exec i s = .next (retire (mulRdEffect d p (writeProduct p s)))) : ∃ t, exec i s = .next t ∧ (t.spr.mh ++ t.spr.ml : BitVec 64) = p
      ∧ t.spr = { s.spr with mh := t.spr.mh, ml := t.spr.ml }
      ∧ KeepsGprs s t [evenReg d, oddReg d] ∧ KeepsFlags s t ∧ KeepsRest s t ∧ UnitEnds t (nextAddr s)
      ∧ (s.cfg.mulRdResult = .unchanged → KeepsGprs s t [])
      ∧ (s.cfg.mulRdResult = .low32 → KeepsGprs s t [evenReg d] ∧ readReg t (evenReg d) = t.spr.ml)
      ∧ (s.cfg.mulRdResult = .pair → readReg t (evenReg d) = t.spr.ml ∧ readReg t (oddReg d) = t.spr.mh) := by
  have hspr : (mulRdEffect d p (writeProduct p s)).spr = (writeProduct p s).spr := mulRdEffect_spr _ _ _
  have hnext : nextAddr (mulRdEffect d p (writeProduct p s)) = nextAddr s := by simp [nextAddr, fetchAddr]
  obtain ⟨hall, hunchanged, hlow, hpair⟩ := mulRdEffect_gprs d p (writeProduct p s)
  refine ⟨_, h, ?_, ?_, hall, keepsFlags_retire (by simp), (sameAround_mulRdEffect d p _).keepsRest, ?_, hunchanged,
    fun h => ?_, fun h => ?_⟩
  · rw [retire_spr, hspr]
    exact append_halves p
  · simp
  · rw [← hnext]
    exact unitEnds_retire _
  · rw [retire_spr, hspr]
    exact hlow h
  · rw [retire_spr, hspr]
    exact hpair h

/-- Settles O21: MAC adds its product to MH:ML, MUL and MULU leave theirs there and in the pair. -/
theorem multiplyInstructions : Obligations.MultiplyInstructions := by
  unfold Obligations.MultiplyInstructions
  intro s d src src2
  dsimp only
  refine ⟨?_, ?_⟩
  · refine ⟨_, rfl, ?_, writesSpecial_retire (u := writeProduct _ s) rfl (sameAround_spr s _) rfl, keepsFlags_retire rfl⟩
    refine (congrArg (fun p : BitVec 64 => (p.toNat : Int)) (append_halves _)).trans ?_
    rw [BitVec.toNat_add, Int.natCast_mod, Int.natCast_add, signedProduct_toNat]
    exact Int.add_emod_emod _ _ _
  · simp only [List.forall_mem_cons, List.not_mem_nil, IsEmpty.forall_iff, implies_true, and_true]
    refine ⟨?_, ?_⟩
    · obtain ⟨t, ht, hp, h⟩ := product_of_exec (i := .mul d src) (d := d) (s := s) rfl
      exact ⟨t, ht, by rw [hp, signedProduct_toNat], h⟩
    · obtain ⟨t, ht, hp, h⟩ := product_of_exec (i := .mulu d src) (d := d) (s := s) rfl
      exact ⟨t, ht, by rw [hp, unsignedProduct_toNat], h⟩

/-! ### Extension, conversion, negation and counts -/

/-- The count of leading bits as a word. -/
theorem leadingCount_toNat (b : Bool) (v : Word) :
    (BitVec.ofNat 32 (leadingCount b v 32)).toNat = leadingCount b v 32 := by
  have := (leadingCount_facts b v 32).1
  rw [BitVec.toNat_ofNat]
  omega

theorem countInto_next (b : Bool) (dst : Reg) (s : State) :
    ∃ t v, countInto b dst s = .next t ∧ WritesReg s t dst v ∧ v.toNat ≤ 32
      ∧ (∀ i < 32, 32 ≤ i + v.toNat → (readReg s dst).getLsbD i = b)
      ∧ (v.toNat < 32 → (readReg s dst).getLsbD (31 - v.toNat) = !b)
      ∧ (t.sr.z = true ↔ v.toNat = 0) ∧ t.sr.c = s.sr.c ∧ t.sr.s = s.sr.s ∧ t.sr.v = s.sr.v := by
  obtain ⟨t, ht, hw, hsr⟩ := writesReg_finishAlu (dst := dst) (s := s)
    (r := BitVec.ofNat 32 (leadingCount b (readReg s dst) 32))
    (sr := { s.sr with z := BitVec.ofNat 32 (leadingCount b (readReg s dst) 32) == 0 })
    ⟨rfl, rfl, rfl, rfl, rfl, rfl, rfl⟩
  obtain ⟨hle, hcounted, hnext⟩ := leadingCount_facts b (readReg s dst) 32
  refine ⟨t, _, ht, hw, ?_⟩
  rw [hsr, leadingCount_toNat]
  refine ⟨hle, hcounted, hnext, ?_, rfl, rfl, rfl⟩
  rw [beq_iff_eq, ← BitVec.toNat_inj, leadingCount_toNat]
  rfl

theorem extract_zero_eq_setWidth {n : Nat} (a : Word) : a.extractLsb' 0 n = a.setWidth n := by
  apply BitVec.eq_of_toNat_eq
  rw [toNat_extract, BitVec.toNat_setWidth, Nat.pow_zero, Nat.div_one]

theorem clamp_eq (lo hi v : Int) (h : lo ≤ hi) : clamp lo hi v = Max.max lo (Min.min hi v) := by
  unfold clamp
  split
  · omega
  · split <;> omega

/-- A value clamped to `n` signed bits fits in a word. -/
theorem convertTo_saturate_toInt {n : Nat} (v : Word) (h : n ≤ 32) (h0 : 0 < n) :
    (convertTo n .saturate v).toInt = Max.max (-2 ^ (n - 1)) (Min.min (2 ^ (n - 1) - 1) v.toInt) := by
  have hle : (2 : Int) ^ (n - 1) ≤ 2 ^ 31 := by exact_mod_cast Nat.pow_le_pow_right two_pos (by omega)
  have hpos : (0 : Int) < 2 ^ (n - 1) := by positivity
  rw [convertTo, BitVec.toInt_ofInt, clamp_eq _ _ _ (by omega)]
  apply Int.bmod_eq_of_le <;> omega

theorem convertTo_zext_toNat {n : Nat} (v : Word) (h : n ≤ 32) : (convertTo n .zext v).toNat = v.toNat % 2 ^ n := by
  rw [convertTo, zext_toNat _ h, toNat_extract, Nat.pow_zero, Nat.div_one]

theorem sext_extract_toInt {n : Nat} (v : Word) (h : n ≤ 32) :
    (sext (v.extractLsb' 0 n)).toInt = (v.setWidth n).toInt := by
  rw [sext_toInt _ h, extract_zero_eq_setWidth]

/-- An extension and a conversion of one width. -/
theorem extend_convert_next {n : Nat} (h : n ≤ 32) (h0 : 0 < n) (dst : Reg) (s : State) :
    (∃ t v, finishNz dst (sext ((readReg s dst).extractLsb' 0 n)) s = .next t ∧ WritesReg s t dst v
        ∧ v.toInt = ((readReg s dst).setWidth n).toInt ∧ NzFlags t.sr v ∧ t.sr.c = s.sr.c ∧ t.sr.v = s.sr.v)
      ∧ ∃ t v, finishNz dst (convertTo n s.cfg.cvtRule (readReg s dst)) s = .next t ∧ WritesReg s t dst v
        ∧ (s.cfg.cvtRule = .zext → v.toNat = (readReg s dst).toNat % 2 ^ n)
        ∧ (s.cfg.cvtRule = .saturate →
          v.toInt = Max.max (-2 ^ (n - 1)) (Min.min (2 ^ (n - 1) - 1) (readReg s dst).toInt))
        ∧ NzFlags t.sr v ∧ t.sr.c = s.sr.c ∧ t.sr.v = s.sr.v := by
  refine ⟨?_, ?_⟩
  · obtain ⟨t, ht, hw, hf⟩ := finishNz_next dst (sext ((readReg s dst).extractLsb' 0 n)) s
    exact ⟨t, _, ht, hw, sext_extract_toInt _ h, hf⟩
  · obtain ⟨t, ht, hw, hf⟩ := finishNz_next dst (convertTo n s.cfg.cvtRule (readReg s dst)) s
    refine ⟨t, _, ht, hw, fun hr => ?_, fun hr => ?_, hf⟩
    · rw [hr, convertTo_zext_toNat _ h]
    · rw [hr, convertTo_saturate_toInt _ h h0]

/-- A unit that writes one register and leaves the flags free. -/
theorem writesReg_freeFlags (dst : Reg) (v : Word) (s : State) :
    WritesReg s (retire (drawFlags (writeReg s dst v))) dst v := by
  have around : SameAround s (drawFlags s) := by
    constructor <;> simp [KeepsSystemBits, KeepsCoprocs, KeepsPlatform, flagsFree]
  exact writesReg_retire (u := drawFlags s) dst v rfl rfl around rfl

/-- Settles O22: counts, NEG, and the extensions and conversions of a byte and of a halfword. -/
theorem extensionInstructions : Obligations.ExtensionInstructions := by
  unfold Obligations.ExtensionInstructions
  intro s dst
  simp only [List.forall_mem_cons, List.not_mem_nil, IsEmpty.forall_iff, implies_true, and_true]
  refine ⟨⟨countInto_next false dst s, countInto_next true dst s⟩, ?_,
    extend_convert_next (by decide) (by decide) dst s, extend_convert_next (by decide) (by decide) dst s⟩
  refine ⟨_, _, rfl, writesReg_freeFlags dst (0 - readReg s dst) s, ?_⟩
  have := (readReg s dst).isLt
  rw [BitVec.toNat_sub, show (0 : Word).toNat = 0 from rfl]
  omega

end Sys2Proof.Machine

/-! SUPPORT. The relative jumps (42_branch.md R331 to R347): what a conditional jump leaves, and what the flags of
a compare say of the two operands. -/

namespace Sys2Proof.Machine

open Sys2Proof.Safety

/-! ### Conditional jumps -/

/-- A conditional jump ends the unit at its target or at the next halfword, and changes nothing else. -/
theorem branch_of_exec {i : Instr} {taken : Bool} {off : BitVec 8} {s : State} {p : Prop}
    (h : exec i s = branchIf taken off s) (hp : taken = true ↔ p) :
    ∃ t, exec i s = .next t ∧ (p → UnitEnds t (nextAddr s + branchDisp s off)) ∧ (¬p → UnitEnds t (nextAddr s))
      ∧ KeepsGprs s t [] ∧ t.spr = s.spr ∧ KeepsFlags s t ∧ KeepsRest s t := by
  cases taken with
  | true => exact ⟨_, h, fun _ => unitEnds_jumpTo _ s, fun hn => absurd (hp.mp rfl) hn, keepsGprs_of_gpr rfl [], rfl,
      ⟨rfl, rfl, rfl, rfl⟩, keepsRest_jumpTo _ (.refl s)⟩
  | false => exact ⟨_, h, fun hq => absurd (hp.mpr hq) (by decide), fun _ => unitEnds_retire s, keepsGprs_of_gpr rfl [],
      rfl, keepsFlags_retire rfl, (SameAround.refl s).keepsRest⟩

/-- Settles O23: each is `branchIf` on its condition. -/
theorem conditionalJumps : Obligations.ConditionalJumps := by
  unfold Obligations.ConditionalJumps
  intro s off
  simp only [List.forall_mem_cons, List.not_mem_nil, IsEmpty.forall_iff, implies_true, and_true]
  refine ⟨branch_of_exec rfl ?_, branch_of_exec rfl ?_, branch_of_exec rfl ?_, branch_of_exec rfl ?_,
    branch_of_exec rfl ?_, branch_of_exec rfl ?_, branch_of_exec rfl ?_, branch_of_exec rfl ?_,
    branch_of_exec rfl ?_, branch_of_exec rfl ?_, branch_of_exec rfl ?_, branch_of_exec rfl ?_,
    branch_of_exec rfl ?_, branch_of_exec rfl ?_⟩ <;> simp

/-! ### What the flags of a compare say -/

section
variable {sr : SR} {a b : Word} (h : SubFlags sr a b false)
include h

theorem carry_iff_of_compare : sr.c = true ↔ a.toNat < b.toNat := by
  obtain ⟨hc, -, -, -⟩ := h
  simpa using hc

theorem zero_iff_of_compare : sr.z = true ↔ a = b := by
  obtain ⟨-, hz, -, -⟩ := h
  rw [hz, ← BitVec.toNat_inj]
  have := a.isLt
  have := b.isLt
  simp only [Bool.toNat_false]
  omega

/-- Sign and overflow agree exactly when the signed difference is not negative. -/
theorem sign_eq_overflow_iff_of_compare : sr.s = sr.v ↔ b.toInt ≤ a.toInt := by
  obtain ⟨-, -, hs, hv⟩ := h
  rw [Bool.eq_iff_iff, hs, hv, BitVec.toInt_eq_toNat_cond, BitVec.toInt_eq_toNat_cond]
  have := a.isLt
  have := b.isLt
  simp only [Bool.toNat_false]
  split <;> split <;> omega

end

/-- A compare, and then each of the ten jumps on its order. -/
theorem jump_of_compare {s : State} {a b : Word} (h : SubFlags s.sr a b false) (off : BitVec 8) :
    ∀ f ∈ [(Instr.jnz off, a ≠ b), (Instr.jz off, a = b), (Instr.jnc off, b.toNat ≤ a.toNat),
        (Instr.jc off, a.toNat < b.toNat), (Instr.jgt off, b.toInt < a.toInt), (Instr.jlt off, a.toInt < b.toInt),
        (Instr.jge off, b.toInt ≤ a.toInt), (Instr.jle off, a.toInt ≤ b.toInt),
        (Instr.jhi off, b.toNat < a.toNat), (Instr.jls off, a.toNat ≤ b.toNat)],
      ∃ taken, exec f.1 s = branchIf taken off s ∧ (taken = true ↔ f.2) := by
  have carry := carry_iff_of_compare h
  have zero := zero_iff_of_compare h
  have order := sign_eq_overflow_iff_of_compare h
  have zeroNat : s.sr.z = true ↔ a.toNat = b.toNat := zero.trans BitVec.toNat_inj.symm
  have zeroInt : s.sr.z = true ↔ a.toInt = b.toInt := zero.trans BitVec.toInt_inj.symm
  simp only [List.forall_mem_cons, List.not_mem_nil, IsEmpty.forall_iff, implies_true, and_true]
  refine ⟨⟨_, rfl, ?_⟩, ⟨_, rfl, zero⟩, ⟨_, rfl, ?_⟩, ⟨_, rfl, carry⟩, ⟨_, rfl, ?_⟩, ⟨_, rfl, ?_⟩, ⟨_, rfl, ?_⟩,
    ⟨_, rfl, ?_⟩, ⟨_, rfl, ?_⟩, ⟨_, rfl, ?_⟩⟩
  case refine_1 => simp [← zero]
  case refine_2 => simp [← not_lt, ← carry]
  case refine_3 =>
    rw [Bool.and_eq_true, Bool.not_eq_true', ← Bool.not_eq_true, beq_iff_eq, zeroInt, order]
    omega
  case refine_4 => rw [bne_iff_ne, Ne, order, not_le]
  case refine_5 => rw [beq_iff_eq, order]
  case refine_6 =>
    rw [Bool.or_eq_true, bne_iff_ne, Ne, zeroInt, order]
    omega
  case refine_7 =>
    rw [Bool.and_eq_true, Bool.not_eq_true', Bool.not_eq_true', ← Bool.not_eq_true, ← Bool.not_eq_true, carry, zeroNat]
    omega
  case refine_8 =>
    rw [Bool.or_eq_true, carry, zeroNat]
    omega

/-- Settles O24: CMP leaves the flags of the difference, and each jump is taken on what they say. -/
theorem compareThenJump : Obligations.CompareThenJump := by
  unfold Obligations.CompareThenJump
  intro s dst src off
  obtain ⟨t, ht, -, hflags⟩ := compareWith_next dst (srcImm s src) s
  refine ⟨t, ht, fun f hf => ?_⟩
  obtain ⟨taken, hexec, hp⟩ := jump_of_compare hflags off f hf
  obtain ⟨u, hu, htaken, hnot, -⟩ := branch_of_exec hexec hp
  exact ⟨u, hu, htaken, hnot⟩

/-! ### JMP and JAL -/

/-- Settles O25: both are one jump to the same target, JAL with LR written before it. -/
theorem relativeJumps : Obligations.RelativeJumps := by
  unfold Obligations.RelativeJumps
  intro s off
  simp only [List.forall_mem_cons, List.not_mem_nil, IsEmpty.forall_iff, implies_true, and_true]
  exact ⟨⟨_, rfl, unitEnds_jumpTo _ _, rfl, keepsGprs_of_gpr rfl [], ⟨rfl, rfl, rfl, rfl⟩,
      keepsRest_jumpTo _ (.refl s)⟩,
    ⟨_, rfl, unitEnds_jumpTo _ _, rfl, keepsGprs_of_gpr rfl [], ⟨rfl, rfl, rfl, rfl⟩,
      keepsRest_jumpTo _ (sameAround_spr s _)⟩⟩

end Sys2Proof.Machine

/-! SUPPORT. The memory instructions (40_load_store.md sections 1 to 4): what storage and the other targets
answer, what a load and a store leave, when an access raises, and the counter step as numbers. -/

namespace Sys2Proof.Machine

open Sys2Proof.Safety

/-! ### Values and their bytes -/

/-- Settles O10: a write then a read of the same bytes, byte by byte. -/
theorem storedValueReadsBack : Obligations.StoredValueReadsBack := by
  unfold Obligations.StoredValueReadsBack
  intro be m a x z v
  refine ⟨?_, fun k hk => ?_, fun hx => ?_⟩
  · rw [readSized_writeSized_same, truncateTo_toNat]
  · rw [readByte_writeSized, if_pos (by omega), Nat.add_sub_cancel_left, valueBytes_storedByte _ _ _ _ hk]
  · rw [readByte_writeSized, if_neg (by omega)]

/-- Up to four bytes as a little-endian value: it fits in them, and each byte is a digit of it. -/
theorem littleEndianValue_digits {bs : List Byte} (h : bs.length ≤ 4) :
    (littleEndianValue bs).toNat < 2 ^ (8 * bs.length)
      ∧ ∀ k < bs.length, (littleEndianValue bs).toNat / 2 ^ (8 * k) % 2 ^ 8 = (bs.getD k 0).toNat := by
  induction bs with
  | nil => exact ⟨by simp [littleEndianValue], fun k hk => absurd hk (by simp)⟩
  | cons b bs ih =>
    rw [List.length_cons] at h
    obtain ⟨hlt, hdigit⟩ := ih (by omega)
    have hb : (b.setWidth 32).toNat = b.toNat := BitVec.toNat_setWidth_of_le (by decide)
    have hfit : (littleEndianValue bs).toNat < 2 ^ 24 :=
      hlt.trans_le (Nat.pow_le_pow_right two_pos (by omega))
    have value : (littleEndianValue (b :: bs)).toNat = (littleEndianValue bs).toNat * 2 ^ 8 + b.toNat := by
      rw [littleEndianValue, BitVec.or_comm, toNat_shift_or _ _ 8 (by rw [hb]; exact b.isLt) (by decide), hb]
      have := b.isLt
      omega
    have hpow : 2 ^ (8 * (bs.length + 1)) = 2 ^ (8 * bs.length) * 2 ^ 8 := by rw [← pow_add]; rfl
    refine ⟨?_, fun k hk => ?_⟩
    · rw [value, List.length_cons, hpow]
      have := b.isLt
      omega
    · cases k with
      | zero =>
        rw [value]
        have := b.isLt
        simp only [Nat.mul_zero, Nat.pow_zero, Nat.div_one, List.getD_cons_zero]
        omega
      | succ k =>
        have hk' : 2 ^ (8 * (k + 1)) = 2 ^ 8 * 2 ^ (8 * k) := by rw [← pow_add]; congr 1; omega
        have drop : ((littleEndianValue bs).toNat * 2 ^ 8 + b.toNat) / 2 ^ 8 = (littleEndianValue bs).toNat := by
          have := b.isLt
          omega
        rw [value, hk', ← Nat.div_div_eq_div_mul, drop, List.getD_cons_succ]
        exact hdigit k (by simpa using hk)

theorem readBytes_length (m : Memory) (a n : Nat) : (readBytes m a n).length = n := by
  induction n generalizing a with
  | zero => rfl
  | succ n ih => simp [readBytes, ih]

theorem readBytes_getD (m : Memory) (a : Nat) {n k : Nat} (h : k < n) :
    (readBytes m a n).getD k 0 = readByte m (a + k) := by
  induction n generalizing a k with
  | zero => omega
  | succ n ih =>
    cases k with
    | zero => rfl
    | succ k => rw [readBytes, List.getD_cons_succ, ih (a + 1) (by omega), Nat.add_right_comm, Nat.add_assoc]

theorem sizeBytes_le (z : AccessSize) : sizeBytes z ≤ 4 := by cases z <;> decide

/-- A value read fits in its bytes. -/
theorem readSized_lt (be : Bool) (m : Memory) (a : Nat) (z : AccessSize) :
    (readSized be m a z).toNat < 2 ^ (8 * sizeBytes z) := by
  have hlen : (if be then (readBytes m a (sizeBytes z)).reverse else readBytes m a (sizeBytes z)).length
      = sizeBytes z := by cases be <;> simp [readBytes_length]
  have h := (littleEndianValue_digits (hlen.trans_le (sizeBytes_le z))).1
  rwa [hlen] at h

/-- The bytes of a value read are the bytes of storage. -/
theorem storedByte_readSized (be : Bool) (m : Memory) (a : Nat) (z : AccessSize) {k : Nat} (h : k < sizeBytes z) :
    storedByte be (sizeBytes z) k (readSized be m a z) = readByte m (a + k) := by
  have hlen := readBytes_length m a (sizeBytes z)
  apply BitVec.eq_of_toNat_eq
  rw [storedByte, toNat_extract, ← readBytes_getD m a h]
  cases be with
  | false => exact (littleEndianValue_digits (hlen.trans_le (sizeBytes_le z))).2 k (by rwa [hlen])
  | true =>
    have hrev : (readBytes m a (sizeBytes z)).reverse.length = sizeBytes z := by rw [List.length_reverse, hlen]
    refine ((littleEndianValue_digits (hrev.trans_le (sizeBytes_le z))).2 (sizeBytes z - 1 - k)
      (by omega)).trans ?_
    rw [List.getD_reverse _ (by omega), hlen]
    congr 3
    omega

/-! ### What answers a read -/

theorem truncateTo_lt (z : AccessSize) (v : Word) : (truncateTo z v).toNat < 2 ^ (8 * sizeBytes z) := by
  rw [truncateTo_toNat]
  exact Nat.mod_lt _ (by positivity)

/-- Nothing but TLB entries is different, so a read gets what the state before the access holds. -/
theorem answersRead_readTarget {s u : State} (z : AccessSize) (g : Target) (h : OnlyTlbTouched s u) :
    AnswersRead s g (sizeBytes z) (readTarget z g u).1 (readTarget z g u).2.env := by
  obtain ⟨⟨tlb, rfl⟩, -⟩ := h
  refine ⟨?_, ?_, ?_, ?_⟩
  · rintro l cc rfl
    exact ⟨⟨readSized_lt _ _ _ _, fun k hk => (storedByte_readSized _ _ _ _ hk).symm⟩, rfl⟩
  · rintro pa w rest rfl hr
    simp [readTarget, deviceRead, hr, truncateTo_toNat]
  · rintro pa rfl hr
    simpa [readTarget, deviceRead, hr] using truncateTo_lt z _
  · rintro rfl
    exact ⟨truncateTo_lt z _, rfl⟩

/-! ### Loads -/

theorem accessed_of_locate {k : AccessKind} {user : Bool} {z : AccessSize} {ea : Word} {g : Target} {s u : State}
    (h : locate k user z ea s = .ok g u) : Accessed s u := by
  have ha := accKeeps_locate k user z ea s
  rwa [h] at ha

theorem sextByte_eq : sextByte = extended .byte true :=
  funext fun v => congrArg (fun b : BitVec 8 => BitVec.ofInt 32 b.toInt) (extract_zero_eq_setWidth v)

theorem sextHalf_eq : sextHalf = extended .half true :=
  funext fun v => congrArg (fun b : BitVec 16 => BitVec.ofInt 32 b.toInt) (extract_zero_eq_setWidth v)

/-- What a unit that reads a target leaves around the register it writes. -/
structure ReadLeaves (s u t : State) (z : AccessSize) (g : Target) : Prop where
  answers : AnswersRead s g (sizeBytes z) (readTarget z g u).1 t.env
  around : KeepsAround s t
  memory : KeepsMemory s t
  stale : t.stale = s.stale
  events : t.events = s.events
  env : t.env = (readTarget z g u).2.env
  scp : t.scp = u.scp
  touched : OnlyTlbTouched s u

/-- A target found and read: the state, and what any later register writes leave. -/
theorem readLeaves_of_locate {s u t : State} {z : AccessSize} {g : Target} {ea : Word}
    (h : locate .read (isUser s) z ea s = .ok g u) (ha : SameAround (readTarget z g u).2 t) : ReadLeaves s u t z g := by
  have ht := locate_onlyTlbTouched h
  have hanswers := answersRead_readTarget z g ht
  obtain ⟨⟨tlb, hu⟩, -⟩ := id ht
  obtain ⟨env, draws, hr, -⟩ := readTarget_frame z g u
  obtain ⟨hhalted, hlockup, hcfg, henv, hevents⟩ := ha.platform
  rw [hr] at ha hhalted hlockup hcfg hevents
  rw [hu] at ha hhalted hlockup hcfg hevents
  refine ⟨henv ▸ hanswers, ⟨ha.systemBits, ha.coprocs, hhalted, hlockup, hcfg⟩,
    keepsMemory_of_storages ha.mem ha.ispmMem ha.dspmMem, ha.stale, hevents, henv, ?_, ht⟩
  rw [ha.scp, hu]

/-- A load that finds a target. -/
theorem load_of_exec {i : Instr} {s : State} {z : AccessSize} {signed : Bool} {ea : Word} {dst : Reg}
    (h : exec i s = loadReg z (extended z signed) ea dst s) :
    ∀ g u, locate .read (isUser s) z ea s = .ok g u → ∃ t, exec i s = .next t
      ∧ readReg t dst = extended z signed (readTarget z g u).1 ∧ KeepsGprs s t [dst]
      ∧ AnswersRead s g (sizeBytes z) (readTarget z g u).1 t.env
      ∧ t.spr = s.spr ∧ KeepsFlags s t ∧ KeepsAround s t ∧ KeepsMemory s t ∧ t.stale = s.stale
      ∧ t.events = s.events ∧ t.env = (readTarget z g u).2.env
      ∧ t.scp = u.scp ∧ OnlyTlbTouched s u ∧ UnitEnds t (nextAddr s) := by
  intro g u hl
  have hread := readLeaves_of_locate (t := retire (writeReg (readTarget z g u).2 dst
    (extended z signed (readTarget z g u).1))) hl ⟨rfl, rfl, rfl, ⟨rfl, rfl, rfl, rfl, rfl, rfl, rfl⟩, rfl,
      ⟨rfl, rfl, rfl⟩, ⟨rfl, rfl, rfl, rfl, rfl⟩, rfl⟩
  have hu : Accessed s (readTarget z g u).2 := (accessed_of_locate hl).trans (accessed_readTarget z g u)
  refine ⟨_, h.trans (loadReg_next _ dst hl), readReg_writeReg_same _ dst _, ?_, hread.answers, hu.spr,
    keepsFlags_retire hu.sr, hread.around, hread.memory, hread.stale, hread.events, hread.env, hread.scp,
    hread.touched, ?_⟩
  · exact keepsGprs_trans (keepsGprs_of_gpr hu.gpr _) (keepsGprs_writeReg (by simp) _)
  · have hn : nextAddr s = nextAddr (writeReg (readTarget z g u).2 dst (extended z signed (readTarget z g u).1)) := by
      simp [nextAddr, fetchAddr, hu.pc, hu.leris]
    rw [hn]
    exact unitEnds_retire _

/-- Settles O27: each is one load with its size, extension and address. -/
theorem loadInstructions : Obligations.LoadInstructions := by
  unfold Obligations.LoadInstructions
  intro s dst idx o4 o3 o7
  simp only [List.forall_mem_cons, List.not_mem_nil, IsEmpty.forall_iff, implies_true, and_true]
  refine ⟨load_of_exec rfl, load_of_exec ?_, load_of_exec ?_, load_of_exec rfl, load_of_exec rfl, load_of_exec rfl,
    load_of_exec ?_, load_of_exec ?_, load_of_exec rfl, load_of_exec rfl⟩
  · rw [← sextByte_eq]; rfl
  · rw [← sextHalf_eq]; rfl
  · rw [← sextByte_eq]; rfl
  · rw [← sextHalf_eq]; rfl

/-! ### Stores -/

/-- What writing a value to a target found leaves: its bytes in storage, an output event, or nothing. -/
structure WriteLeaves (s u t : State) (z : AccessSize) (g : Target) (v : Word) : Prop where
  storage : ∀ l cc, g = .storage l cc → KeepsMemoryOutside s t l (sizeBytes z) ∧ t.events = s.events
    ∧ ∀ k < sizeBytes z, t.byteAt { l with addr := l.addr + k } = storedByte s.sr.endian (sizeBytes z) k v
  device : ∀ pa, g = .device pa → KeepsMemory s t ∧ t.stale = s.stale
    ∧ t.events = s.events ++ [.deviceWrite pa (sizeBytes z) (truncateTo z v)]
  openBus : g = .openBus → KeepsMemory s t ∧ t.stale = s.stale ∧ t.events = s.events
  around : KeepsAround s t
  env : t.env = s.env
  scp : t.scp = u.scp
  touched : OnlyTlbTouched s u

theorem writeTarget_env (z : AccessSize) (g : Target) (v : Word) (s : State) : (writeTarget z g v s).env = s.env := by
  obtain ⟨_, _, _, _, _, h⟩ := writeTarget_frame z g v s
  rw [h]

theorem writeTarget_scp (z : AccessSize) (g : Target) (v : Word) (s : State) : (writeTarget z g v s).scp = s.scp := by
  obtain ⟨_, _, _, _, _, h⟩ := writeTarget_frame z g v s
  rw [h]

/-- A target found and written: the state, and what any later register writes leave. -/
theorem writeLeaves_of_locate {s u t : State} {z : AccessSize} {g : Target} {ea v : Word}
    (h : locate .write (isUser s) z ea s = .ok g u) (ha : SameAround (writeTarget z g v u) t) :
    WriteLeaves s u t z g v := by
  have ht := locate_onlyTlbTouched h
  have hacc := accessed_of_locate h
  have hw : Accessed s (writeTarget z g v u) := hacc.trans (accessed_writeTarget z g v u)
  obtain ⟨⟨tlb, hu⟩, -⟩ := id ht
  have hstale : u.stale = s.stale := by rw [hu]
  have hevents : u.events = s.events := by rw [hu]
  have henv : u.env = s.env := by rw [hu]
  have before (l : Loc) : u.byteAt l = s.byteAt l := by rw [hu]; exact byteAt_of_storages rfl rfl rfl l
  have bytes (l : Loc) : t.byteAt l = (writeTarget z g v u).byteAt l := byteAt_of_storages ha.mem ha.ispmMem ha.dspmMem l
  obtain ⟨phalted, plockup, pcfg, penv, pevents⟩ := ha.platform
  refine ⟨?_, ?_, ?_, ⟨?_, ?_, phalted.trans hw.halted, plockup.trans hw.lockup, pcfg.trans hw.cfg⟩,
    penv.trans ((writeTarget_env z g v u).trans henv), ha.scp.trans (writeTarget_scp z g v u), ht⟩
  · rintro l cc rfl
    refine ⟨fun m hm => ?_, pevents.trans ((storeAt_events z l cc v u).trans hevents), fun k hk => ?_⟩
    · rw [bytes, ← before]
      exact keepsMemoryOutside_storeAt z l cc v u m hm
    · rw [bytes, ← hacc.sr]
      exact byteAt_stored z l cc v u k hk
  · rintro pa rfl
    exact ⟨fun l => (bytes l).trans (before l), ha.stale.trans hstale, by rw [pevents, ← hevents]; rfl⟩
  · rintro rfl
    exact ⟨fun l => (bytes l).trans (before l), ha.stale.trans hstale, pevents.trans hevents⟩
  · have hb := ha.systemBits
    unfold KeepsSystemBits at hb ⊢
    rwa [hw.sr] at hb
  · obtain ⟨h1, h2, h3⟩ := ha.coprocs
    exact ⟨h1.trans hw.cp1, h2.trans hw.cp2, h3.trans hw.cp3⟩

/-- A store that finds a target. -/
theorem store_of_exec {i : Instr} {s : State} {z : AccessSize} {ea v : Word} (h : exec i s = storeReg z ea v s) :
    ∀ g u, locate .write (isUser s) z ea s = .ok g u → ∃ t, exec i s = .next t
      ∧ (∀ l cc, g = .storage l cc → KeepsMemoryOutside s t l (sizeBytes z) ∧ t.events = s.events
        ∧ ∀ k < sizeBytes z, t.byteAt { l with addr := l.addr + k } = storedByte s.sr.endian (sizeBytes z) k v)
      ∧ (∀ pa, g = .device pa → KeepsMemory s t ∧ t.stale = s.stale
        ∧ ∃ w, t.events = s.events ++ [.deviceWrite pa (sizeBytes z) w]
          ∧ w.toNat = v.toNat % 2 ^ (8 * sizeBytes z))
      ∧ (g = .openBus → KeepsMemory s t ∧ t.stale = s.stale ∧ t.events = s.events)
      ∧ KeepsGprs s t [] ∧ t.spr = s.spr ∧ KeepsFlags s t ∧ KeepsAround s t ∧ t.env = s.env
      ∧ t.scp = u.scp ∧ OnlyTlbTouched s u ∧ UnitEnds t (nextAddr s) := by
  intro g u hl
  have hw := writeLeaves_of_locate (v := v) (t := retire (writeTarget z g v u)) hl
    ⟨rfl, rfl, rfl, ⟨rfl, rfl, rfl, rfl, rfl, rfl, rfl⟩, rfl, ⟨rfl, rfl, rfl⟩, ⟨rfl, rfl, rfl, rfl, rfl⟩, rfl⟩
  have hu : Accessed s (writeTarget z g v u) := (accessed_of_locate hl).trans (accessed_writeTarget z g v u)
  refine ⟨_, h.trans (storeReg_next hl), hw.storage, fun pa hg => ?_, hw.openBus, keepsGprs_of_gpr hu.gpr _, hu.spr,
    keepsFlags_retire hu.sr, hw.around, hw.env, hw.scp, hw.touched, ?_⟩
  · obtain ⟨hmem, hstale, hevents⟩ := hw.device pa hg
    exact ⟨hmem, hstale, _, hevents, truncateTo_toNat z v⟩
  · rw [show nextAddr s = nextAddr (writeTarget z g v u) by simp [nextAddr, fetchAddr, hu.pc, hu.leris]]
    exact unitEnds_retire _

/-- Settles O28: each is one store with its size, address and source register. -/
theorem storeInstructions : Obligations.StoreInstructions := by
  unfold Obligations.StoreInstructions
  intro s src idx o4 o3 o7
  simp only [List.forall_mem_cons, List.not_mem_nil, IsEmpty.forall_iff, implies_true, and_true]
  exact ⟨store_of_exec rfl, store_of_exec rfl, store_of_exec rfl, store_of_exec rfl, store_of_exec rfl,
    store_of_exec rfl⟩

/-! ### Accesses that raise -/

/-- An instruction whose access raises takes that exception with `pc` saved. -/
theorem conclude_memRead_raise {s u : State} {z : AccessSize} {ea off : Word} (f : Word → State → Outcome)
    (h : locate .read (isUser s) z ea s = .raise off u) :
    conclude (memRead z ea s) f = exceptionEntry off s.pc .normal u := by
  obtain ⟨-, -, -, hpc, -, -⟩ := locate_raise_frame h
  simp [memRead, memReadAs, h, andThen, conclude, takeFault, hpc]

theorem conclude_memWrite_raise {s u : State} {z : AccessSize} {ea v off : Word} (f : Unit → State → Outcome)
    (h : locate .write (isUser s) z ea s = .raise off u) :
    conclude (memWrite z ea v s) f = exceptionEntry off s.pc .normal u := by
  obtain ⟨-, -, -, hpc, -, -⟩ := locate_raise_frame h
  simp [memWrite, memWriteAs, h, andThen, conclude, takeFault, hpc]

/-- A misaligned data access raises code 0011 and records nothing else. -/
theorem locate_misaligned {kind : AccessKind} {user : Bool} {size : AccessSize} {va : Word} {s : State}
    (hk : kind ≠ .fetch) (h : va.toNat % sizeBytes size ≠ 0) :
    locate kind user size va s = .raise 0x20 { s with scp := { s.scp with pendingCode := 0b0011, pending := true } } := by
  have ha : isAligned size va = false := by
    rw [← Bool.not_eq_true, isAligned_iff]
    exact h
  unfold locate
  rw [if_pos ⟨hk, ha⟩]
  rfl

/-- An answered part that raises leaves the pending code, or records one that is not 0011. -/
def AccCodes {α : Type} (s : State) (a : Acc α) : Prop :=
  ∀ off t, a = .raise off t →
    t.scp.pending = s.scp.pending ∧ t.scp.pendingCode = s.scp.pendingCode ∨ t.scp.pendingCode ≠ 0b0011

theorem accCodes_ok {α : Type} (s t : State) (v : α) : AccCodes s (.ok v t) := by
  intro _ _ h
  cases h

theorem accCodes_fault {α : Type} (s : State) (r : Fault) : AccCodes s (.fault r : Acc α) := by
  intro _ _ h
  cases h

theorem accCodes_raiseScp {α : Type} {code : BitVec 4} (s t : State) (h : code ≠ 0b0011) :
    AccCodes s (raiseScp code t : Acc α) := by
  intro off u hu
  cases hu
  exact .inr h

theorem violationCode_ne_misaligned (k : AccessKind) : violationCode k ≠ 0b0011 := by cases k <;> decide

theorem accCodes_locateBus (k : AccessKind) (pa : Word) (cc : BitVec 2) {s t : State} (hp : t.scp.pending = s.scp.pending)
    (hc : t.scp.pendingCode = s.scp.pendingCode) : AccCodes s (locateBus k pa cc t) := by
  unfold locateBus
  split
  · exact accCodes_ok _ _ _
  · exact accCodes_ok _ _ _
  · exact accCodes_ok _ _ _
  · intro off u hu
    cases k <;> cases hu <;> exact .inl ⟨hp, hc⟩

theorem accCodes_locateSpm (k : AccessKind) (user : Bool) (va : Word) (hit : SpmHit) (more : List SpmHit) (s : State) :
    AccCodes s (locateSpm k user va hit more s) := by
  unfold locateSpm
  split
  · exact accCodes_fault _ _
  split
  · exact accCodes_fault _ _
  split
  · exact accCodes_fault _ _
  split
  · exact accCodes_raiseScp _ _ (violationCode_ne_misaligned k)
  · exact accCodes_ok _ _ _

theorem accCodes_locateTlb (k : AccessKind) (user : Bool) (va : Word) (s : State) :
    AccCodes s (locateTlb k user va s) := by
  unfold locateTlb
  split
  · exact accCodes_raiseScp _ _ (by cases k <;> decide)
  · dsimp only
    split
    · exact accCodes_raiseScp _ _ (by decide)
    split
    · exact accCodes_raiseScp _ _ (violationCode_ne_misaligned k)
    · exact accCodes_locateBus k _ _ (by cases k <;> rfl) (by cases k <;> rfl)
  · exact accCodes_fault _ _

theorem accCodes_locateMbmu (k : AccessKind) (user : Bool) (va : Word) (s : State) :
    AccCodes s (locateMbmu k user va s) := by
  unfold locateMbmu
  split
  · split
    · exact accCodes_raiseScp _ _ (violationCode_ne_misaligned k)
    · exact accCodes_locateBus k _ _ rfl rfl
  · split
    · exact accCodes_raiseScp _ _ (violationCode_ne_misaligned k)
    · exact accCodes_locateBus k _ _ rfl rfl
  · exact accCodes_fault _ _

/-- No aligned access records code 0011. -/
theorem accCodes_locate {k : AccessKind} {user : Bool} {z : AccessSize} {va : Word} (s : State)
    (h : va.toNat % sizeBytes z = 0) : AccCodes s (locate k user z va s) := by
  rw [locate_aligned (.inr h)]
  split
  · exact accCodes_locateSpm _ _ _ _ _ s
  split
  · exact accCodes_locateTlb _ _ _ s
  · exact accCodes_locateMbmu _ _ _ s

theorem misalignedRead_of_exec {i : Instr} {s : State} {z : AccessSize} {ea : Word} {f : Word → State → Outcome}
    (h : exec i s = conclude (memRead z ea s) f) (hm : ea.toNat % sizeBytes z ≠ 0) :
    exec i s = exceptionEntry 0x20 s.pc .normal
      { s with scp := { s.scp with pendingCode := 0b0011, pending := true } } :=
  h.trans (conclude_memRead_raise f (locate_misaligned (by decide) hm))

theorem misalignedWrite_of_exec {i : Instr} {s : State} {z : AccessSize} {ea v : Word} {f : Unit → State → Outcome}
    (h : exec i s = conclude (memWrite z ea v s) f) (hm : ea.toNat % sizeBytes z ≠ 0) :
    exec i s = exceptionEntry 0x20 s.pc .normal
      { s with scp := { s.scp with pendingCode := 0b0011, pending := true } } :=
  h.trans (conclude_memWrite_raise f (locate_misaligned (by decide) hm))

theorem statusWord_bit_six (s : State) : (statusWord s).getLsbD 6 = false := by
  unfold statusWord
  rw [BitVec.getLsbD_append, BitVec.getLsbD_append, BitVec.getLsbD_append, BitVec.getLsbD_append]
  rfl

/-- Settles O29: a misaligned data access raises before anything else is asked, an aligned one never with that
code. -/
theorem misalignedAccessRaises : Obligations.MisalignedAccessRaises := by
  unfold Obligations.MisalignedAccessRaises
  intro s r idx o4 o3 o7
  refine ⟨?_, fun kind user size va hk h => locate_misaligned hk h,
    fun kind user size va off u h hl => accCodes_locate s h off u hl, fun va => Nat.mod_one _, statusWord_bit_six s⟩
  simp only [List.forall_mem_cons, List.not_mem_nil, IsEmpty.forall_iff, implies_true, and_true]
  exact ⟨misalignedRead_of_exec (z := .word) rfl, misalignedWrite_of_exec (z := .word) rfl,
    misalignedRead_of_exec (z := .word) rfl, misalignedWrite_of_exec (z := .word) rfl,
    misalignedRead_of_exec (z := .half) rfl, misalignedRead_of_exec (z := .half) rfl,
    misalignedWrite_of_exec (z := .half) rfl, misalignedRead_of_exec (z := .half) rfl,
    misalignedRead_of_exec (z := .half) rfl, misalignedWrite_of_exec (z := .half) rfl⟩

theorem raisedRead_of_exec {i : Instr} {s : State} {z : AccessSize} {ea : Word} {f : Word → State → Outcome}
    (h : exec i s = conclude (memRead z ea s) f) :
    ∀ off u, locate .read (isUser s) z ea s = .raise off u → exec i s = exceptionEntry off s.pc .normal u
      ∧ u.gpr = s.gpr ∧ u.spr = s.spr ∧ u.sr = s.sr ∧ KeepsMemory s u ∧ (off = 0x20 ∨ off = 0x10) := by
  intro off u hl
  obtain ⟨hgpr, hspr, hsr, -, hmem, hoff⟩ := locate_raise_frame hl
  exact ⟨h.trans (conclude_memRead_raise f hl), hgpr, hspr, hsr, hmem, hoff⟩

theorem raisedWrite_of_exec {i : Instr} {s : State} {z : AccessSize} {ea v : Word} {f : Unit → State → Outcome}
    (h : exec i s = conclude (memWrite z ea v s) f) :
    ∀ off u, locate .write (isUser s) z ea s = .raise off u → exec i s = exceptionEntry off s.pc .normal u
      ∧ u.gpr = s.gpr ∧ u.spr = s.spr ∧ u.sr = s.sr ∧ KeepsMemory s u ∧ (off = 0x20 ∨ off = 0x10) := by
  intro off u hl
  obtain ⟨hgpr, hspr, hsr, -, hmem, hoff⟩ := locate_raise_frame hl
  exact ⟨h.trans (conclude_memWrite_raise f hl), hgpr, hspr, hsr, hmem, hoff⟩

/-- Settles O30: each begins with its one access, and a raised access changes no register and no byte. -/
theorem faultingAccessChangesNothing : Obligations.FaultingAccessChangesNothing := by
  unfold Obligations.FaultingAccessChangesNothing
  intro s r idx o4 o3 o7 j c
  simp only [List.forall_mem_cons, List.not_mem_nil, IsEmpty.forall_iff, implies_true, and_true]
  exact ⟨⟨raisedRead_of_exec rfl, raisedRead_of_exec rfl, raisedRead_of_exec rfl, raisedRead_of_exec rfl,
      raisedRead_of_exec rfl, raisedRead_of_exec rfl, raisedRead_of_exec rfl, raisedRead_of_exec rfl,
      raisedRead_of_exec rfl, raisedRead_of_exec rfl, raisedRead_of_exec rfl⟩,
    raisedWrite_of_exec rfl, raisedWrite_of_exec rfl, raisedWrite_of_exec rfl, raisedWrite_of_exec rfl,
    raisedWrite_of_exec rfl, raisedWrite_of_exec rfl, raisedWrite_of_exec rfl⟩

/-! ### Auto-increment -/

/-- The special registers after the counter has stepped. -/
def steppedSpr (c : BitVec 1) (s : State) : Spr :=
  if c = 0 then { s.spr with cr0 := (counterStep s.cfg.crStep (counterReg s c)).1 }
  else { s.spr with cr1 := (counterStep s.cfg.crStep (counterReg s c)).1 }

theorem withCounter_eq (c : BitVec 1) (v : Word) (s : State) : withCounter c v s = { s with
    spr := if c = 0 then { s.spr with cr0 := v } else { s.spr with cr1 := v } } := by
  unfold withCounter
  split <;> rfl

/-- A counter step changes its counter register, and Z where the mode writes it. -/
theorem stepCounter_eq (c : BitVec 1) (s : State) : stepCounter c s = { s with
    spr := steppedSpr c s
    sr := { s.sr with z := (counterStep s.cfg.crStep (counterReg s c)).2.getD s.sr.z } } := by
  unfold stepCounter
  simp only [withCounter_eq]
  cases (counterStep s.cfg.crStep (counterReg s c)).2 <;> rfl

/-- The state after an access has completed and the counter has stepped. -/
theorem stepCounter_of_accessed {s u : State} (c : BitVec 1) (hspr : u.spr = s.spr) (hcfg : u.cfg = s.cfg)
    (hsr : u.sr = s.sr) : steppedSpr c u = steppedSpr c s
      ∧ (counterStep u.cfg.crStep (counterReg u c)).2.getD u.sr.z
        = (counterStep s.cfg.crStep (counterReg s c)).2.getD s.sr.z := by
  simp only [steppedSpr, counterReg, hspr, hcfg, hsr, and_self]

theorem ldau_next {s u : State} {j : BitVec 2} {c : BitVec 1} {r : Reg} {g : Target}
    (h : locate .read (isUser s) .word (counterAddr j c s) s = .ok g u) : exec (.ldau j c r) s
      = .next (retire (stepCounter c (writeReg (readTarget .word g u).2 r (readTarget .word g u).1))) := by
  simp [exec, execLdau, memRead, memReadAs, h, andThen, conclude]

theorem stau_next {s u : State} {j : BitVec 2} {c : BitVec 1} {r : Reg} {g : Target}
    (h : locate .write (isUser s) .word (counterAddr j c s) s = .ok g u) :
    exec (.stau j c r) s = .next (retire (stepCounter c (writeTarget .word g (readReg s r) u))) := by
  simp [exec, execStau, memWrite, memWriteAs, h, andThen, conclude]

theorem SameAround.stepCounter {s u : State} (h : SameAround s u) (c : BitVec 1) :
    SameAround s (retire (stepCounter c u)) := by
  rw [stepCounter_eq]
  exact ⟨h.mem, h.ispmMem, h.dspmMem, h.systemBits, h.scp, h.coprocs, h.platform, h.stale⟩

theorem sameAround_writeReg (s : State) (r : Reg) (v : Word) : SameAround s (writeReg s r v) :=
  ⟨rfl, rfl, rfl, ⟨rfl, rfl, rfl, rfl, rfl, rfl, rfl⟩, rfl, ⟨rfl, rfl, rfl⟩, ⟨rfl, rfl, rfl, rfl, rfl⟩, rfl⟩

/-- What the unit leaves of the registers once its access has left `u`. -/
theorem stepCounter_unit {s u : State} (c : BitVec 1) (hspr : u.spr = s.spr) (hcfg : u.cfg = s.cfg) (hsr : u.sr = s.sr)
    (hpc : u.pc = s.pc) (hleris : u.leris = s.leris) : (retire (stepCounter c u)).gpr = u.gpr
      ∧ (retire (stepCounter c u)).spr = steppedSpr c s
      ∧ (retire (stepCounter c u)).sr.z = (counterStep s.cfg.crStep (counterReg s c)).2.getD s.sr.z
      ∧ (retire (stepCounter c u)).sr.c = s.sr.c ∧ (retire (stepCounter c u)).sr.s = s.sr.s
      ∧ (retire (stepCounter c u)).sr.v = s.sr.v ∧ UnitEnds (retire (stepCounter c u)) (nextAddr s) := by
  obtain ⟨hs, hz⟩ := stepCounter_of_accessed c hspr hcfg hsr
  have hn : nextAddr s = nextAddr (stepCounter c u) := by
    rw [stepCounter_eq]
    simp [nextAddr, fetchAddr, hpc, hleris]
  rw [hn, stepCounter_eq, ← hs, ← hz, ← hsr]
  exact ⟨rfl, rfl, rfl, rfl, rfl, rfl, unitEnds_retire _⟩

/-- Settles O31: the access is made with the counter as it was, and the counter steps after it. -/
theorem autoIncrementInstructions : Obligations.AutoIncrementInstructions := by
  unfold Obligations.AutoIncrementInstructions
  intro s j c r
  refine ⟨fun g u hl => ?_, fun g u hl => ?_⟩
  · have hu : Accessed s (readTarget .word g u).2 :=
      (accessed_of_locate hl).trans (accessed_readTarget .word g u)
    obtain ⟨hgpr, hspr, hz, hc, hs, hv, hends⟩ := stepCounter_unit
      (u := writeReg (readTarget .word g u).2 r (readTarget .word g u).1) c hu.spr hu.cfg hu.sr hu.pc hu.leris
    have hread := readLeaves_of_locate hl
      ((sameAround_writeReg (readTarget .word g u).2 r (readTarget .word g u).1).stepCounter c)
    refine ⟨_, ldau_next hl, ?_, ?_, hread.answers, hspr, hz, hc, hs, hv, hread.around, hread.memory, hread.scp,
      hread.stale, hread.events, hread.env, hread.touched, hends⟩
    · rw [readReg_of_gpr hgpr, readReg_writeReg_same]
    · exact keepsGprs_trans (keepsGprs_of_gpr hu.gpr _) (keepsGprs_trans (keepsGprs_writeReg (by simp) _)
        (keepsGprs_of_gpr hgpr _))
  · have hu : Accessed s (writeTarget .word g (readReg s r) u) :=
      (accessed_of_locate hl).trans (accessed_writeTarget .word g _ u)
    obtain ⟨hgpr, hspr, hz, hc, hs, hv, hends⟩ := stepCounter_unit c hu.spr hu.cfg hu.sr hu.pc hu.leris
    have hw := writeLeaves_of_locate hl ((SameAround.refl (writeTarget .word g (readReg s r) u)).stepCounter c)
    refine ⟨_, stau_next hl, keepsGprs_of_gpr (hgpr.trans hu.gpr) _, hspr, hz, hc, hs, hv, hw.around, hw.env, hw.scp,
      hw.touched, hw.storage, fun pa hg => ?_, fun hg => ?_, hends⟩
    · obtain ⟨hmem, -, hevents⟩ := hw.device pa hg
      exact ⟨hmem, hevents⟩
    · obtain ⟨hmem, -, hevents⟩ := hw.openBus hg
      exact ⟨hmem, hevents⟩

/-! ### The counter step as numbers -/

theorem extract_eq_iff {n : Nat} (cr : Word) (lo : Nat) (v : BitVec n) :
    cr.extractLsb' lo n = v ↔ cr.toNat / 2 ^ lo % 2 ^ n = v.toNat := by
  rw [← BitVec.toNat_inj, toNat_extract]

/-- Only the counter field changes. -/
theorem setCount_toNat (cr : Word) (count : BitVec 12) :
    (setCount cr count).toNat = cr.toNat / 4096 * 4096 + count.toNat := by
  rw [setCount, toNat_append, toNat_extract]
  have := cr.isLt
  omega

theorem count_add_toNat (count : BitVec 12) : (count + 4).toNat = (count.toNat + 4) % 4096 := BitVec.toNat_add _ _

/-- The bits of the counter under the mask step, the others stay. -/
theorem wrapCount_toNat (mask count : BitVec 12) :
    (wrapCount mask count).toNat = (count.toNat &&& (4095 - mask.toNat)) ||| ((count.toNat + 4) &&& mask.toNat) := by
  have low : (count.toNat + 4) % 4096 &&& mask.toNat = (count.toNat + 4) &&& mask.toNat := by
    apply Nat.eq_of_testBit_eq
    intro i
    rw [Nat.testBit_and, Nat.testBit_and, show (4096 : Nat) = 2 ^ 12 from rfl, Nat.testBit_mod_two_pow]
    by_cases hi : i < 12
    · simp [hi]
    · simp [Nat.testBit_lt_two_pow (mask.isLt.trans_le (Nat.pow_le_pow_right two_pos (not_lt.mp hi)))]
  rw [wrapCount, BitVec.toNat_or, BitVec.toNat_and, BitVec.toNat_and, BitVec.toNat_not, count_add_toNat, low]

/-- Under a mask of the low `p` bits the counter steps modulo `2 ^ p`. -/
theorem wrapCount_low_toNat {mask : BitVec 12} {p : Nat} (hp : p ≤ 12) (h : mask.toNat = 2 ^ p - 1) (count : BitVec 12) :
    (wrapCount mask count).toNat = count.toNat / 2 ^ p * 2 ^ p + (count.toNat + 4) % 2 ^ p := by
  rw [wrapCount_toNat, h, Nat.and_two_pow_sub_one_eq_mod]
  have high : count.toNat &&& (4095 - (2 ^ p - 1)) = (count.toNat / 2 ^ p) <<< p := by
    apply Nat.eq_of_testBit_eq
    intro i
    have ones : (4095 - (2 ^ p - 1)).testBit i = (decide (i < 12) && !decide (i < p)) := by
      have hlt : 2 ^ p - 1 < 2 ^ 12 := by
        have := Nat.pow_le_pow_right (n := 2) two_pos hp
        have := Nat.two_pow_pos p
        omega
      rw [show 4095 - (2 ^ p - 1) = 2 ^ 12 - (2 ^ p - 1 + 1) by omega, Nat.testBit_two_pow_sub_succ hlt,
        Nat.testBit_two_pow_sub_one]
    rw [Nat.testBit_and, ones, Nat.testBit_shiftLeft, Nat.testBit_div_two_pow]
    by_cases hip : i < p
    · simp [hip]
    · rw [Nat.sub_add_cancel (not_lt.mp hip)]
      by_cases hi : i < 12
      · simp [hip, hi, not_lt.mp hip]
      · simp [Nat.testBit_lt_two_pow (count.isLt.trans_le (Nat.pow_le_pow_right two_pos (not_lt.mp hi)))]
  rw [high, ← Nat.shiftLeft_add_eq_or_of_lt (Nat.mod_lt _ (Nat.two_pow_pos p)), Nat.shiftLeft_eq]

/-- The bits above the counter stay, whatever the mode. -/
theorem defaultCounterStep_high (cr : Word) : (defaultCounterStep cr).1.toNat / 4096 = cr.toNat / 4096 := by
  have keeps (count : BitVec 12) : (setCount cr count).toNat / 4096 = cr.toNat / 4096 := by
    rw [setCount_toNat]
    have := count.isLt
    omega
  unfold defaultCounterStep
  dsimp only
  split
  · exact keeps _
  split
  · exact keeps _
  split
  · exact keeps _
  split
  · exact keeps _
  · exact keeps _

section
variable {cr : Word} (hinc : cr.toNat / 2 ^ 24 % 16 = 0)
include hinc

theorem defaultCounterStep_mode {v : BitVec 4} (h : cr.toNat / 2 ^ 28 = v.toNat) :
    cr.extractLsb' 24 4 = 0 ∧ cr.extractLsb' 28 4 = v := by
  rw [extract_eq_iff, extract_eq_iff, h]
  exact ⟨hinc, Nat.mod_eq_of_lt v.isLt⟩

theorem counterStep_linear (h : cr.toNat / 2 ^ 28 = 0) :
    counterStep .default cr = (setCount cr (cr.extractLsb' 0 12 + 4), none) := by
  obtain ⟨h1, h2⟩ := defaultCounterStep_mode hinc (v := 0b0000) h
  simp [counterStep, defaultCounterStep, h1, h2]

theorem counterStep_endTest (h : cr.toNat / 2 ^ 28 = 1) : counterStep .default cr
    = (setCount cr (cr.extractLsb' 0 12 + 4), some (cr.extractLsb' 0 12 + 4 == cr.extractLsb' 12 12)) := by
  obtain ⟨h1, h2⟩ := defaultCounterStep_mode hinc (v := 0b0001) h
  simp [counterStep, defaultCounterStep, h1, h2]

theorem counterStep_wrap (h : cr.toNat / 2 ^ 28 = 4) : counterStep .default cr
    = (setCount cr (wrapCount (cr.extractLsb' 12 12) (cr.extractLsb' 0 12)), none) := by
  obtain ⟨h1, h2⟩ := defaultCounterStep_mode hinc (v := 0b0100) h
  simp [counterStep, defaultCounterStep, h1, h2]

theorem counterStep_wrapTest (h : cr.toNat / 2 ^ 28 = 5) : counterStep .default cr
    = (setCount cr (wrapCount (cr.extractLsb' 12 12) (cr.extractLsb' 0 12)),
      some (wrapCount (cr.extractLsb' 12 12) (cr.extractLsb' 0 12) &&& cr.extractLsb' 12 12 == 0)) := by
  obtain ⟨h1, h2⟩ := defaultCounterStep_mode hinc (v := 0b0101) h
  simp [counterStep, defaultCounterStep, h1, h2]

end

/-- The counter field after it is set. -/
theorem setCount_mod (cr : Word) (count : BitVec 12) : (setCount cr count).toNat % 4096 = count.toNat := by
  rw [setCount_toNat]
  have := count.isLt
  omega

/-- A test of a 12-bit field as a test of numbers. -/
theorem beq_eq_decide_toNat {n : Nat} (a b : BitVec n) : (a == b) = decide (a.toNat = b.toNat) := by
  rw [Bool.eq_iff_iff, beq_iff_eq, decide_eq_true_eq, BitVec.toNat_inj]

/-- Settles O32: the four modes of R282 set the counter field, and a mask of the low bits wraps it. -/
theorem counterStepModes : Obligations.CounterStepModes := by
  unfold Obligations.CounterStepModes
  intro cr
  have count : (cr.extractLsb' 0 12).toNat = cr.toNat % 4096 :=
    (toNat_extract cr 0 12).trans (by norm_num)
  have mask : (cr.extractLsb' 12 12).toNat = cr.toNat / 4096 % 4096 := toNat_extract cr 12 12
  refine ⟨defaultCounterStep_high cr, fun hinc => ⟨fun h => ?_, fun h => ?_, fun h => ?_, fun h => ?_,
    fun p hp hem => ⟨fun h => ?_, fun h => ?_⟩⟩⟩
  · rw [counterStep_linear hinc h, setCount_mod, count_add_toNat, count]
    exact ⟨rfl, rfl⟩
  · rw [counterStep_endTest hinc h, setCount_mod, beq_eq_decide_toNat, count_add_toNat, count, mask]
    exact ⟨rfl, rfl⟩
  · rw [counterStep_wrap hinc h, setCount_mod, wrapCount_toNat, count, mask]
    exact ⟨rfl, rfl⟩
  · rw [counterStep_wrapTest hinc h, setCount_mod, beq_eq_decide_toNat, BitVec.toNat_and, wrapCount_toNat, count,
      mask]
    exact ⟨rfl, rfl⟩
  · rw [counterStep_wrap hinc h, setCount_mod, wrapCount_low_toNat hp (mask.trans hem), count]
    exact ⟨rfl, rfl⟩
  · have low : (cr.toNat % 4096 / 2 ^ p * 2 ^ p + (cr.toNat % 4096 + 4) % 2 ^ p) % 2 ^ p
        = (cr.toNat % 4096 + 4) % 2 ^ p := by
      rw [Nat.mul_add_mod_self_right, Nat.mod_mod]
    rw [counterStep_wrapTest hinc h, setCount_mod, beq_eq_decide_toNat, BitVec.toNat_and,
      wrapCount_low_toNat hp (mask.trans hem), count, mask, hem, Nat.and_two_pow_sub_one_eq_mod, low]
    exact ⟨rfl, rfl⟩

end Sys2Proof.Machine

/-! SUPPORT. PUSH and POP (40_load_store.md R288, R290): what the word accesses of a list leave, which word is
whose, and what user mode gets for the system bits (46_system.md R496). -/

namespace Sys2Proof.Machine

open Sys2Proof.Safety

/-! ### Word accesses over any memory -/

/-- What completed reads change: of the system coprocessor the TLB at most, and inputs and free values. -/
structure ReadsOnly (s u : State) : Prop where
  accessed : Accessed s u
  memory : KeepsMemory s u
  stale : u.stale = s.stale
  events : u.events = s.events
  scp : ∃ tlb, u.scp = { s.scp with tlb := tlb }

theorem ReadsOnly.refl (s : State) : ReadsOnly s s := ⟨.refl s, fun _ => rfl, rfl, rfl, _, rfl⟩

theorem scp_tlb_trans {s t u : State} (h : ∃ tlb, t.scp = { s.scp with tlb := tlb })
    (k : ∃ tlb, u.scp = { t.scp with tlb := tlb }) : ∃ tlb, u.scp = { s.scp with tlb := tlb } := by
  obtain ⟨a, ha⟩ := h
  obtain ⟨b, hb⟩ := k
  exact ⟨b, by rw [hb, ha]⟩

theorem ReadsOnly.trans {s t u : State} (h : ReadsOnly s t) (k : ReadsOnly t u) : ReadsOnly s u :=
  ⟨h.accessed.trans k.accessed, fun l => (k.memory l).trans (h.memory l), k.stale.trans h.stale,
    k.events.trans h.events, scp_tlb_trans h.scp k.scp⟩

/-- An answered access: what it found, and what reading there left. -/
theorem memReadAs_ok {user : Bool} {z : AccessSize} {va v : Word} {s u : State} (h : memReadAs user z va s = .ok v u) :
    ∃ g w, locate .read user z va s = .ok g w ∧ v = (readTarget z g w).1 ∧ u = (readTarget z g w).2 := by
  unfold memReadAs at h
  cases hl : locate .read user z va s with
  | ok g w =>
    rw [hl] at h
    cases h
    exact ⟨g, w, rfl, rfl, rfl⟩
  | raise off w => rw [hl] at h; cases h
  | fault r => rw [hl] at h; cases h

theorem memWriteAs_ok {user : Bool} {z : AccessSize} {va v : Word} {x : Unit} {s u : State}
    (h : memWriteAs user z va v s = .ok x u) :
    ∃ g w, locate .write user z va s = .ok g w ∧ u = writeTarget z g v w := by
  unfold memWriteAs at h
  cases hl : locate .write user z va s with
  | ok g w =>
    rw [hl] at h
    cases h
    exact ⟨g, w, rfl, rfl⟩
  | raise off w => rw [hl] at h; cases h
  | fault r => rw [hl] at h; cases h

theorem readsOnly_memReadAs {user : Bool} {z : AccessSize} {va v : Word} {s u : State}
    (h : memReadAs user z va s = .ok v u) : ReadsOnly s u := by
  obtain ⟨g, w, hl, -, rfl⟩ := memReadAs_ok h
  have hacc : Accessed s (readTarget z g w).2 := (accessed_of_locate hl).trans (accessed_readTarget z g w)
  obtain ⟨env, draws, hr, -⟩ := readTarget_frame z g w
  obtain ⟨⟨tlb, hw⟩, -⟩ := locate_onlyTlbTouched hl
  refine ⟨hacc, ?_, ?_, ?_, tlb, ?_⟩ <;> rw [hr, hw]
  exact keepsMemory_of_storages rfl rfl rfl

/-- What completed writes leave: device inputs as they were, and of the system coprocessor TLB entries at most. -/
theorem memWriteAs_frame {user : Bool} {z : AccessSize} {va v : Word} {x : Unit} {s u : State}
    (h : memWriteAs user z va v s = .ok x u) : u.env = s.env ∧ ∃ tlb, u.scp = { s.scp with tlb := tlb } := by
  obtain ⟨g, w, hl, rfl⟩ := memWriteAs_ok h
  obtain ⟨⟨tlb, hw⟩, -⟩ := locate_onlyTlbTouched hl
  rw [writeTarget_env, writeTarget_scp, hw]
  exact ⟨rfl, tlb, rfl⟩

theorem pushWords_frame {top : Word} {vs : List Word} {x : Unit} {s u : State} (h : pushWords top vs s = .ok x u) :
    u.env = s.env ∧ ∃ tlb, u.scp = { s.scp with tlb := tlb } := by
  induction vs generalizing top s with
  | nil =>
    cases h
    exact ⟨rfl, _, rfl⟩
  | cons v vs ih =>
    rw [pushWords] at h
    cases hw : memWrite .word (top - 4) v s with
    | ok y t =>
      rw [hw] at h
      obtain ⟨henv, hscp⟩ := memWriteAs_frame hw
      obtain ⟨kenv, kscp⟩ := ih h
      exact ⟨kenv.trans henv, scp_tlb_trans hscp kscp⟩
    | raise off t => rw [hw] at h; cases h
    | fault r => rw [hw] at h; cases h

/-- Completed reads of `n` words give `n` words. -/
theorem popWords_ok {bottom : Word} {n : Nat} {ws : List Word} {s u : State} (h : popWords bottom n s = .ok ws u) :
    ws.length = n ∧ ReadsOnly s u := by
  induction n generalizing bottom s ws with
  | zero =>
    cases h
    exact ⟨rfl, .refl _⟩
  | succ n ih =>
    rw [popWords] at h
    cases hr : memRead .word bottom s with
    | ok v t =>
      rw [hr, andThen] at h
      cases hp : popWords (bottom + 4) n t with
      | ok vs w =>
        rw [hp] at h
        cases h
        obtain ⟨hlen, hro⟩ := ih hp
        exact ⟨by rw [List.length_cons, hlen], (readsOnly_memReadAs hr).trans hro⟩
      | raise off w => rw [hp] at h; cases h
      | fault r => rw [hp] at h; cases h
    | raise off t => rw [hr] at h; cases h
    | fault r => rw [hr] at h; cases h

/-- An answered part that raises leaves every byte of storage. -/
def AccRaiseKeepsMemory {α : Type} (s : State) (a : Acc α) : Prop := ∀ off u, a = .raise off u → KeepsMemory s u

theorem accRaiseKeepsMemory_memReadAs (user : Bool) (z : AccessSize) (va : Word) (s : State) :
    AccRaiseKeepsMemory s (memReadAs user z va s) := by
  intro off u h
  unfold memReadAs at h
  cases hl : locate .read user z va s with
  | ok g w => rw [hl] at h; cases h
  | raise o w =>
    rw [hl] at h
    cases h
    obtain ⟨-, -, -, -, hmem, -⟩ := locate_raise_frame hl
    exact hmem
  | fault r => rw [hl] at h; cases h

theorem accRaiseKeepsMemory_popWords (bottom : Word) (n : Nat) (s : State) :
    AccRaiseKeepsMemory s (popWords bottom n s) := by
  induction n generalizing bottom s with
  | zero =>
    intro off u h
    cases h
  | succ n ih =>
    intro off u h
    rw [popWords] at h
    cases hr : memRead .word bottom s with
    | ok v t =>
      rw [hr, andThen] at h
      have hro := readsOnly_memReadAs hr
      cases hp : popWords (bottom + 4) n t with
      | ok vs w => rw [hp] at h; cases h
      | raise o w =>
        rw [hp] at h
        cases h
        exact fun l => (ih _ _ off u hp l).trans (hro.memory l)
      | fault r => rw [hp] at h; cases h
    | raise o t =>
      rw [hr] at h
      cases h
      exact accRaiseKeepsMemory_memReadAs _ _ _ _ off u hr
    | fault r => rw [hr] at h; cases h

theorem keepsAround_of_accessed {s u : State} (h : Accessed s u) : KeepsAround s u := by
  refine ⟨?_, ⟨h.cp1, h.cp2, h.cp3⟩, h.halted, h.lockup, h.cfg⟩
  unfold KeepsSystemBits
  rw [h.sr]
  exact ⟨rfl, rfl, rfl, rfl, rfl, rfl, rfl⟩

theorem isUser_of_sr {s u : State} (h : u.sr = s.sr) : isUser u = isUser s := by
  unfold isUser
  rw [h]

/-! ### The stack pointer -/

theorem and_stackMask_of_aligned {x : Word} (h : x.toNat % 4 = 0) : x &&& 0xFFFFFFFC = x := by
  apply BitVec.eq_of_toNat_eq
  rw [and_stackMask_toNat]
  omega

/-- The special registers after accesses and a write of the stack pointer of the mode. -/
theorem writeSp_of_accessed {s u : State} (h : Accessed s u) (v : Word) : writeSp u v = { u with
    spr := if isUser s then { u.spr with usp := v &&& 0xFFFFFFFC } else { u.spr with ssp := v &&& 0xFFFFFFFC } } := by
  rw [writeSp_eq, isUser_of_sr h.sr]

theorem nextAddr_of_accessed {s u : State} (h : Accessed s u) : nextAddr u = nextAddr s := by
  simp only [nextAddr, fetchAddr, h.pc, h.leris]

/-! ### PUSH -/

theorem pushList_ok {list : BitVec 8} {value : BitVec 3 → Word} {s u : State} {x : Unit}
    (h : pushWords (readSp s) ((listBits list).reverse.map value) s = .ok x u) : pushList list value s
      = .next (retire (writeSp u (readSp s - 4 * BitVec.ofNat 32 (listBits list).length))) := by
  unfold pushList
  rw [h]
  rfl

theorem pushList_raise {list : BitVec 8} {value : BitVec 3 → Word} {s u : State} {off : Word}
    (h : pushWords (readSp s) ((listBits list).reverse.map value) s = .raise off u) :
    pushList list value s = exceptionEntry off s.pc .normal u ∧ u.spr = s.spr ∧ u.gpr = s.gpr ∧ u.sr = s.sr := by
  have ha := accKeeps_pushWords (readSp s) ((listBits list).reverse.map value) s
  rw [h] at ha
  refine ⟨?_, ha.spr, ha.gpr, ha.sr⟩
  rw [← ha.pc, pushList, h]
  rfl

/-- A PUSH whose words are written ends the unit with the stack pointer of the mode lowered. -/
theorem push_completes {i : Instr} {s u : State} {list : BitVec 8} {value : BitVec 3 → Word}
    (hi : exec i s = pushList list value s)
    (h : pushWords (readSp s) ((listBits list).reverse.map value) s = .ok () u) :
    u.gpr = s.gpr ∧ u.spr = s.spr ∧ u.sr = s.sr ∧ u.env = s.env ∧ KeepsAround s u
      ∧ (∃ tlb, u.scp = { s.scp with tlb := tlb }) ∧ ∃ t, exec i s = .next t ∧ UnitEnds t (nextAddr s)
      ∧ t = { u with
          pc := t.pc, leris := 0, sr := { u.sr with e := false }
          spr := if isUser s then
              { u.spr with usp := (readSp s - 4 * BitVec.ofNat 32 (listBits list).length) &&& 0xFFFFFFFC }
            else { u.spr with ssp := (readSp s - 4 * BitVec.ofNat 32 (listBits list).length) &&& 0xFFFFFFFC } } := by
  have ha := accKeeps_pushWords (readSp s) ((listBits list).reverse.map value) s
  rw [h] at ha
  obtain ⟨henv, hscp⟩ := pushWords_frame h
  refine ⟨ha.gpr, ha.spr, ha.sr, henv, keepsAround_of_accessed ha, hscp, _, hi.trans (pushList_ok h), ?_, ?_⟩
  · rw [← nextAddr_of_accessed ha, writeSp_eq]
    exact unitEnds_retire _
  · rw [writeSp_of_accessed ha]
    rfl

/-- Settles O34: each is `pushList` of its values, and its words are written or one of them raises. -/
theorem pushCompletesOrRestarts : Obligations.PushCompletesOrRestarts := by
  unfold Obligations.PushCompletesOrRestarts
  intro s list
  simp only [List.forall_mem_cons, List.not_mem_nil, IsEmpty.forall_iff, implies_true, and_true]
  exact ⟨⟨fun u => push_completes rfl, fun off u h => pushList_raise h⟩,
    ⟨fun u => push_completes rfl, fun off u h => pushList_raise h⟩,
    fun u => push_completes rfl, fun off u h => pushList_raise h⟩

/-- The words of a PUSH in plain RAM, counted from the bottom: each bit's word at its rank. -/
theorem pushWords_ranks {s : State} {list : BitVec 8} (value : BitVec 3 → Word)
    (h : PlainStack (isUser s) (readSp s - 4 * BitVec.ofNat 32 (listBits list).length) (listBits list).length s) :
    ∃ u, pushWords (readSp s) ((listBits list).reverse.map value) s = .ok () u ∧ Accessed s u ∧ u.scp = s.scp
      ∧ u.env = s.env ∧ u.events = s.events
      ∧ (∀ b ∈ listBits list, wordAt u (busLoc (readSp s - 4 * BitVec.ofNat 32 (listBits list).length
        + 4 * BitVec.ofNat 32 (rankIn list b))) = value b)
      ∧ ∀ m, (∀ k < (listBits list).length, Outside (busLoc (readSp s - 4 * BitVec.ofNat 32 (listBits list).length
        + 4 * BitVec.ofNat 32 k)) 4 m) → u.byteAt m = s.byteAt m := by
  obtain ⟨hlen, -, -, hbits⟩ := listBits_facts list
  obtain ⟨haligned, hplain⟩ := h
  rw [extract_two_iff] at haligned
  generalize hn : (listBits list).length = n at *
  have place (i : Nat) (hi : i < n) : readSp s - 4 * BitVec.ofNat 32 n + 4 * BitVec.ofNat 32 (n - 1 - i)
      = readSp s - 4 * BitVec.ofNat 32 (i + 1) := by
    have split : BitVec.ofNat 32 n = BitVec.ofNat 32 (n - 1 - i) + BitVec.ofNat 32 (i + 1) := by
      rw [← BitVec.ofNat_add]
      congr 1
      omega
    rw [split]
    bv_omega
  have hcount : ((listBits list).reverse.map value).length = n := by rw [List.length_map, List.length_reverse, hn]
  obtain ⟨u, hu, ha, hscp, henv, hevents, hwords, hbytes⟩ := pushWords_plain (readSp s)
    ((listBits list).reverse.map value) s (by omega) (by bv_omega)
    (fun i hi => place i (by omega) ▸ hplain (n - 1 - i) (by omega))
  refine ⟨u, hu, ha, hscp, henv, hevents, fun b hb => ?_, fun m hm => hbytes m fun i hi => ?_⟩
  · obtain ⟨hrank, hrev, -⟩ := hbits b hb
    have hi : n - 1 - rankIn list b < ((listBits list).reverse.map value).length := by omega
    have hw := hwords _ hi
    rw [← place _ (by omega), show n - 1 - (n - 1 - rankIn list b) = rankIn list b by omega] at hw
    rw [hw]
    have hget : ((listBits list).reverse.map value)[n - 1 - rankIn list b]? = some (value b) := by
      rw [List.getElem?_map, hrev]
      rfl
    exact (List.getElem?_eq_some_iff.mp hget).2
  · rw [← place i (by omega)]
    exact hm _ (by omega)

theorem bottom_aligned {s : State} {bottom : Word} {n : Nat} {user : Bool} (h : PlainStack user bottom n s) :
    bottom &&& 0xFFFFFFFC = bottom :=
  and_stackMask_of_aligned ((extract_two_iff _).mp h.1)

/-- A PUSH in plain RAM. -/
theorem push_plain {i : Instr} {s : State} {list : BitVec 8} {value : BitVec 3 → Word}
    (hi : exec i s = pushList list value s)
    (h : PlainStack (isUser s) (readSp s - 4 * BitVec.ofNat 32 (listBits list).length) (listBits list).length s) :
    ∃ t, exec i s = .next t
      ∧ (∀ b ∈ listBits list, wordAt t (busLoc (readSp s - 4 * BitVec.ofNat 32 (listBits list).length
        + 4 * BitVec.ofNat 32 (rankIn list b))) = value b)
      ∧ (∀ m, (∀ k < (listBits list).length, Outside (busLoc (readSp s - 4 * BitVec.ofNat 32 (listBits list).length
        + 4 * BitVec.ofNat 32 k)) 4 m) → t.byteAt m = s.byteAt m)
      ∧ (isUser s = true →
        t.spr = { s.spr with usp := readSp s - 4 * BitVec.ofNat 32 (listBits list).length })
      ∧ (isUser s = false →
        t.spr = { s.spr with ssp := readSp s - 4 * BitVec.ofNat 32 (listBits list).length })
      ∧ KeepsGprs s t [] ∧ KeepsFlags s t ∧ KeepsAround s t ∧ KeepsScp s t ∧ t.env = s.env
      ∧ t.events = s.events ∧ UnitEnds t (nextAddr s) := by
  obtain ⟨u, hu, ha, hscp, henv, hevents, hwords, hbytes⟩ := pushWords_ranks value h
  obtain ⟨-, -, -, -, haround, -, t, ht, hends, htu⟩ := push_completes hi hu
  rw [bottom_aligned h] at htu
  have bytes (m : Loc) : t.byteAt m = u.byteAt m := by rw [htu]; exact byteAt_of_storages rfl rfl rfl m
  refine ⟨t, ht, fun b hb => ?_, fun m hm => (bytes m).trans (hbytes m hm), fun hs => ?_, fun hs => ?_, ?_, ?_, ?_, ?_, ?_,
    ?_, hends⟩
  · rw [← hwords b hb]
    exact wordAt_congr (by rw [htu]) fun k _ => bytes _
  · rw [htu, hs, ← ha.spr]
    rfl
  · rw [htu, hs, ← ha.spr]
    rfl
  · exact keepsGprs_of_gpr (by rw [htu]; exact ha.gpr) []
  · rw [htu, KeepsFlags, ← ha.sr]
    exact ⟨rfl, rfl, rfl, rfl⟩
  · rw [htu]
    exact haround
  · rw [htu]
    exact hscp
  · rw [htu]
    exact henv
  · rw [htu]
    exact hevents

/-- The values of the special list by bit. -/
theorem specialValue_eq (s : State) (b : BitVec 3) : specialValue s b
    = if b = 0 then s.spr.cr0 else if b = 1 then s.spr.cr1 else if b = 2 then s.spr.ml
      else if b = 3 then s.spr.mh else if b = 4 then 0 else if b = 5 then s.spr.lr
      else if b = 6 then nextAddr s else SR.toWord s.cfg.srLayout { s.sr with e := false } := by
  obtain ⟨⟨b, hb⟩⟩ := b
  interval_cases b <;> rfl

/-- Settles O33: each is `pushList` of its values. -/
theorem pushStoresWords : Obligations.PushStoresWords := by
  unfold Obligations.PushStoresWords
  intro s list n bottom h
  simp only [List.forall_mem_cons, List.not_mem_nil, IsEmpty.forall_iff, implies_true, and_true, ← specialValue_eq]
  exact ⟨push_plain rfl h, push_plain rfl h, push_plain rfl h⟩

/-! ### POP -/

/-- The word of a bit among the words of a POP. -/
def poppedWord (list : BitVec 8) (ws : List Word) (b : BitVec 3) : Word := ws.getD (rankIn list b) 0

/-- The words of a POP, each with its bit. -/
theorem zip_listBits {list : BitVec 8} {ws : List Word} (h : ws.length = (listBits list).length) :
    (listBits list).zip ws = (listBits list).map fun b => (b, poppedWord list ws b) := by
  obtain ⟨-, -, hzip, -⟩ := listBits_facts list
  have hws : ws = (List.range (listBits list).length).map fun k => ws.getD k 0 := by
    apply List.ext_getElem (by simp [h])
    intro k hk _
    simp [List.getElem?_eq_getElem hk]
  calc (listBits list).zip ws
      = ((listBits list).zip (List.range (listBits list).length)).map (Prod.map id fun k => ws.getD k 0) := by
        rw [← List.zip_map_right, ← hws]
    _ = (listBits list).map fun b => (b, poppedWord list ws b) := by
        rw [hzip, List.map_map]
        rfl

theorem getElem?_rankIn {list : BitVec 8} {ws : List Word} (h : ws.length = (listBits list).length) {b : BitVec 3}
    (hb : b ∈ listBits list) : ws[rankIn list b]? = some (poppedWord list ws b) := by
  obtain ⟨-, -, -, hbits⟩ := listBits_facts list
  obtain ⟨hrank, -, -⟩ := hbits b hb
  rw [poppedWord, List.getD_eq_getElem?_getD, List.getElem?_eq_getElem (by omega)]
  rfl

theorem popList_ok {list : BitVec 8} {assign : List (BitVec 3 × Word) → State → State} {s u : State}
    {ws : List Word} (h : popWords (readSp s) (listBits list).length s = .ok ws u) : popList list assign s
      = .next (assign ((listBits list).map fun b => (b, poppedWord list ws b))
        (writeSp u (readSp s + 4 * BitVec.ofNat 32 (listBits list).length))) := by
  obtain ⟨hlen, -⟩ := popWords_ok h
  rw [← zip_listBits hlen, popList, h]
  rfl

theorem popList_raise {list : BitVec 8} {assign : List (BitVec 3 × Word) → State → State} {s u : State} {off : Word}
    (h : popWords (readSp s) (listBits list).length s = .raise off u) :
    popList list assign s = exceptionEntry off s.pc .normal u ∧ u.gpr = s.gpr ∧ u.spr = s.spr ∧ u.sr = s.sr
      ∧ KeepsMemory s u := by
  have ha := accKeeps_popWords (readSp s) (listBits list).length s
  rw [h] at ha
  refine ⟨?_, ha.gpr, ha.spr, ha.sr, accRaiseKeepsMemory_popWords _ _ _ off u h⟩
  rw [← ha.pc, popList, h]
  rfl

/-- In plain RAM the words are those at the places of their bits, and nothing is recorded. -/
theorem popWords_ranks {s : State} {list : BitVec 8}
    (h : PlainStack (isUser s) (readSp s) (listBits list).length s) :
    ∃ ws, popWords (readSp s) (listBits list).length s = .ok ws s ∧ ∀ b ∈ listBits list,
      poppedWord list ws b = wordAt s (busLoc (readSp s + 4 * BitVec.ofNat 32 (rankIn list b))) := by
  obtain ⟨hlen, -, -, hbits⟩ := listBits_facts list
  obtain ⟨haligned, hplain⟩ := h
  refine ⟨_, popWords_plain _ _ s hlen ((extract_two_iff _).mp haligned) hplain, fun b hb => ?_⟩
  obtain ⟨hrank, -, -⟩ := hbits b hb
  simp [poppedWord, hrank]

/-- A POP of general registers whose words are read. -/
theorem popRegs_completes {i : Instr} {s u : State} {list : BitVec 8} {reg : BitVec 3 → Reg} {ws : List Word}
    (hi : exec i s = popList list (fun ws s => retire (assignRegs reg ws s)) s)
    (hreg : ∀ a b, reg a = reg b → a = b) (h : popWords (readSp s) (listBits list).length s = .ok ws u) :
    ∃ t, exec i s = .next t ∧ UnitEnds t (nextAddr s)
      ∧ (∀ b ∈ listBits list, readReg t (reg b) = poppedWord list ws b) ∧ KeepsGprs s t ((listBits list).map reg)
      ∧ t = { u with
          gpr := t.gpr, pc := t.pc, leris := 0, sr := { u.sr with e := false }
          spr := if isUser s then
              { u.spr with usp := (readSp s + 4 * BitVec.ofNat 32 (listBits list).length) &&& 0xFFFFFFFC }
            else { u.spr with ssp := (readSp s + 4 * BitVec.ofNat 32 (listBits list).length) &&& 0xFFFFFFFC } } := by
  obtain ⟨-, hro⟩ := popWords_ok h
  have ha := hro.accessed
  obtain ⟨-, hnodup, -, -⟩ := listBits_facts list
  have hp := hi.trans (popList_ok h)
  rw [writeSp_of_accessed ha] at hp
  obtain ⟨hlisted, hothers, gpr, hassign⟩ := assignRegs_next reg hreg (listBits list) hnodup (poppedWord list ws)
    { u with spr := if isUser s then
        { u.spr with usp := (readSp s + 4 * BitVec.ofNat 32 (listBits list).length) &&& 0xFFFFFFFC }
      else { u.spr with ssp := (readSp s + 4 * BitVec.ofNat 32 (listBits list).length) &&& 0xFFFFFFFC } }
  refine ⟨_, hp, ?_, hlisted, fun r hr => (hothers r hr).trans (readReg_of_gpr ha.gpr r), ?_⟩
  · rw [← nextAddr_of_accessed ha, hassign]
    exact unitEnds_retire _
  · rw [hassign]
    rfl

theorem lowListReg_injective : ∀ a b, lowListReg a = lowListReg b → a = b := by decide

theorem highListReg_injective : ∀ a b, highListReg a = highListReg b → a = b := by decide

/-- What POP of a list of general registers does: in plain RAM, over any memory, and when a read raises. -/
theorem popRegs_of_exec {i : Instr} {s : State} {list : BitVec 8} {reg : BitVec 3 → Reg}
    (hi : exec i s = popList list (fun ws s => retire (assignRegs reg ws s)) s)
    (hreg : ∀ a b, reg a = reg b → a = b) :
    (PlainStack (isUser s) (readSp s) (listBits list).length s → ∃ t, exec i s = .next t
        ∧ (∀ b ∈ listBits list, readReg t (reg b)
          = wordAt s (busLoc (readSp s + 4 * BitVec.ofNat 32 (rankIn list b))))
        ∧ KeepsGprs s t ((listBits list).map reg)
        ∧ (isUser s = true →
          t.spr = { s.spr with usp := readSp s + 4 * BitVec.ofNat 32 (listBits list).length })
        ∧ (isUser s = false →
          t.spr = { s.spr with ssp := readSp s + 4 * BitVec.ofNat 32 (listBits list).length })
        ∧ KeepsFlags s t ∧ KeepsRest s t ∧ UnitEnds t (nextAddr s))
      ∧ (∀ ws u, popWords (readSp s) (listBits list).length s = .ok ws u → u.gpr = s.gpr ∧ u.spr = s.spr ∧ u.sr = s.sr
        ∧ KeepsAround s u ∧ KeepsMemory s u ∧ u.stale = s.stale ∧ u.events = s.events
        ∧ (∃ tlb, u.scp = { s.scp with tlb := tlb }) ∧ ∃ t, exec i s = .next t ∧ UnitEnds t (nextAddr s)
        ∧ (∀ b ∈ listBits list, ws[rankIn list b]? = some (readReg t (reg b)))
        ∧ KeepsGprs s t ((listBits list).map reg)
        ∧ t = { u with
            gpr := t.gpr, pc := t.pc, leris := 0, sr := { u.sr with e := false }
            spr := if isUser s then
                { u.spr with usp := (readSp s + 4 * BitVec.ofNat 32 (listBits list).length) &&& 0xFFFFFFFC }
              else { u.spr with ssp := (readSp s + 4 * BitVec.ofNat 32 (listBits list).length) &&& 0xFFFFFFFC } })
      ∧ ∀ off u, popWords (readSp s) (listBits list).length s = .raise off u →
        exec i s = exceptionEntry off s.pc .normal u ∧ u.gpr = s.gpr ∧ u.spr = s.spr ∧ u.sr = s.sr
          ∧ KeepsMemory s u := by
  refine ⟨fun hplain => ?_, fun ws u h => ?_, fun off u h => ?_⟩
  · obtain ⟨ws, h, hwords⟩ := popWords_ranks hplain
    obtain ⟨t, ht, hends, hregs, hkeeps, htu⟩ := popRegs_completes hi hreg h
    have htop : (readSp s + 4 * BitVec.ofNat 32 (listBits list).length) &&& 0xFFFFFFFC
        = readSp s + 4 * BitVec.ofNat 32 (listBits list).length := by
      have := (extract_two_iff _).mp hplain.1
      exact and_stackMask_of_aligned (by bv_omega)
    rw [htop] at htu
    refine ⟨t, ht, fun b hb => (hregs b hb).trans (hwords b hb), hkeeps, fun hs => ?_, fun hs => ?_, ?_, ?_, hends⟩
    · rw [htu, hs]
      rfl
    · rw [htu, hs]
      rfl
    · rw [htu]
      exact ⟨rfl, rfl, rfl, rfl⟩
    · rw [htu]
      exact ⟨⟨rfl, rfl, rfl, rfl, rfl, rfl, rfl⟩, keepsMemory_of_storages rfl rfl rfl, rfl, ⟨rfl, rfl, rfl⟩,
        ⟨rfl, rfl, rfl, rfl, rfl⟩, rfl⟩
  · obtain ⟨hlen, hro⟩ := popWords_ok h
    have ha := hro.accessed
    obtain ⟨t, ht, hends, hregs, hkeeps, htu⟩ := popRegs_completes hi hreg h
    exact ⟨ha.gpr, ha.spr, ha.sr, keepsAround_of_accessed ha, hro.memory, hro.stale, hro.events, hro.scp, t, ht, hends,
      fun b hb => (getElem?_rankIn hlen hb).trans (congrArg some (hregs b hb).symm), hkeeps, htu⟩
  · obtain ⟨he, h⟩ := popList_raise h
    exact ⟨hi.trans he, h⟩

/-- Settles O35: both are `popList` that assigns general registers. -/
theorem popLoadsRegisters : Obligations.PopLoadsRegisters := by
  unfold Obligations.PopLoadsRegisters
  intro s list
  simp only [List.forall_mem_cons, List.not_mem_nil, IsEmpty.forall_iff, implies_true, and_true]
  exact ⟨popRegs_of_exec rfl lowListReg_injective, popRegs_of_exec rfl highListReg_injective⟩

/-! ### POP of the special list -/

/-- The registers of the special list that a POP loads by themselves, the words and the stack pointer given. -/
def poppedSpr (list : BitVec 8) (word : BitVec 3 → Word) (s : State) : Spr :=
  let sp := (readSp s + 4 * BitVec.ofNat 32 (listBits list).length) &&& 0xFFFFFFFC
  { s.spr with
    cr0 := if list.getLsbD 0 then word 0 else s.spr.cr0
    cr1 := if list.getLsbD 1 then word 1 else s.spr.cr1
    ml := if list.getLsbD 2 then word 2 else s.spr.ml
    mh := if list.getLsbD 3 then word 3 else s.spr.mh
    lr := if list.getLsbD 5 then word 5 &&& 0xFFFFFFFE else s.spr.lr
    usp := if isUser s then sp else s.spr.usp
    ssp := if isUser s then s.spr.ssp else sp }

/-- SR after a POP of the special list that begins in the mode of `s`. -/
def poppedSr (list : BitVec 8) (word : BitVec 3 → Word) (s : State) : SR :=
  if list.getLsbD 7 then (popSr (isUser s) (word 7) s).sr else s.sr

/-- A return with PC and SR given or not, as one update. -/
theorem exceptionReturn_eq (user : Bool) (pcWord srWord : Option Word) (s : State) :
    exceptionReturn user pcWord srWord s = { s with
      pc := pcWord.getD (nextAddr s) &&& 0xFFFFFFFE, leris := 0
      sr := { (srWord.elim s fun w => popSr user w s).sr with e := false } } := by
  cases pcWord <;> cases srWord <;> cases user <;> rfl

theorem popSr_sr_congr {s u : State} (user : Bool) (w : Word) (hcfg : u.cfg = s.cfg) (hsr : u.sr = s.sr) :
    (popSr user w u).sr = (popSr user w s).sr := by
  unfold popSr
  rw [hcfg, hsr]
  cases user <;> rfl

/-- What the assignments but those of PC and SR leave, the stack pointer written before them. -/
theorem foldl_assignSpecial_writeSp {s u : State} (h : Accessed s u) (list : BitVec 8) (word : BitVec 3 → Word) :
    ((listBits list).map fun b => (b, word b)).foldl assignSpecial
      (writeSp u (readSp s + 4 * BitVec.ofNat 32 (listBits list).length))
      = { u with spr := poppedSpr list word s } := by
  rw [foldl_assignSpecial, writeSp_of_accessed h, poppedSpr, h.spr]
  simp only [mem_listBits]
  cases isUser s <;> rfl

theorem exceptionReturn_popped {s u : State} (h : Accessed s u) (list : BitVec 8) (word : BitVec 3 → Word) (spr : Spr) :
    exceptionReturn (isUser s) (if list.getLsbD 6 then some (word 6) else none)
      (if list.getLsbD 7 then some (word 7) else none) { u with spr := spr } = { u with
        pc := (if list.getLsbD 6 then word 6 else nextAddr s) &&& 0xFFFFFFFE, leris := 0
        sr := { poppedSr list word s with e := false }, spr := spr } := by
  have hnext : nextAddr { u with spr := spr } = nextAddr s := by
    rw [← nextAddr_of_accessed h]
    rfl
  have hpop : (popSr (isUser s) (word 7) { u with spr := spr }).sr = (popSr (isUser s) (word 7) s).sr :=
    popSr_sr_congr _ _ h.cfg h.sr
  have hsr : ((if list.getLsbD 7 then some (word 7) else none).elim { u with spr := spr }
      fun w => popSr (isUser s) w { u with spr := spr }).sr = poppedSr list word s := by
    unfold poppedSr
    cases list.getLsbD 7
    · exact h.sr
    · exact hpop
  have hpc : (if list.getLsbD 6 then some (word 6) else none).getD (nextAddr s)
      = if list.getLsbD 6 then word 6 else nextAddr s := by
    cases list.getLsbD 6 <;> rfl
  rw [exceptionReturn_eq, hnext, hsr, hpc]

/-- A POP of the special list whose words are read. -/
theorem popSpecial_completes {s u : State} {list : BitVec 8} {ws : List Word}
    (h : popWords (readSp s) (listBits list).length s = .ok ws u) : popSpecial list s = .next { u with
      pc := (if list.getLsbD 6 then poppedWord list ws 6 else nextAddr s) &&& 0xFFFFFFFE, leris := 0
      sr := { poppedSr list (poppedWord list ws) s with e := false }
      spr := poppedSpr list (poppedWord list ws) s } := by
  obtain ⟨-, hro⟩ := popWords_ok h
  have pcWord := lookup_listBits (poppedWord list ws) 6 list
  have srWord := lookup_listBits (poppedWord list ws) 7 list
  refine (popList_ok h).trans (congrArg Host.Outcome.next ?_)
  rw [foldl_assignSpecial_writeSp hro.accessed, pcWord, srWord]
  exact exceptionReturn_popped hro.accessed list _ _

/-- The words of the listed bits alone are used. -/
theorem poppedSpr_congr {list : BitVec 8} {v w : BitVec 3 → Word} (s : State)
    (h : ∀ b ∈ listBits list, v b = w b) : poppedSpr list v s = poppedSpr list w s := by
  have bit (b : BitVec 3) (x : Word) :
      (if list.getLsbD b.toNat then v b else x) = if list.getLsbD b.toNat then w b else x :=
    ite_congr rfl (fun hb => h b ((mem_listBits list b).mpr hb)) fun _ => rfl
  have lr : (if list.getLsbD 5 then v 5 &&& 0xFFFFFFFE else s.spr.lr)
      = if list.getLsbD 5 then w 5 &&& 0xFFFFFFFE else s.spr.lr :=
    ite_congr rfl (fun hb => by rw [h 5 ((mem_listBits list 5).mpr hb)]) fun _ => rfl
  have cr0 := bit 0 s.spr.cr0
  have cr1 := bit 1 s.spr.cr1
  have ml := bit 2 s.spr.ml
  have mh := bit 3 s.spr.mh
  simp only [poppedSpr]
  congr 1

/-- What a completed POP of the special list leaves, in the words of the statements. -/
theorem popsSpecial_of_completes {s u : State} {list : BitVec 8} {word : BitVec 3 → Word} (ha : Accessed s u) :
    PopsSpecial s { u with
      pc := (if list.getLsbD 6 then word 6 else nextAddr s) &&& 0xFFFFFFFE, leris := 0
      sr := { poppedSr list word s with e := false }, spr := poppedSpr list word s } list word := by
  refine ⟨rfl, ⟨rfl, rfl, rfl⟩, fun h7 => ?_, keepsGprs_of_gpr ha.gpr []⟩
  simp only [poppedSr, h7, Bool.false_eq_true, if_false]

/-- SR loaded in supervisor mode is the word, but for the read-only bits. -/
theorem loadsSr_poppedSr {s t : State} {list : BitVec 8} {word : BitVec 3 → Word} (hs : isUser s = false)
    (h7 : list.getLsbD 7 = true) (h : t.sr = { poppedSr list word s with e := false }) : LoadsSr s t (word 7) := by
  unfold LoadsSr LoadsFlags
  rw [h, poppedSr, h7, hs]
  exact ⟨rfl, rfl, rfl, rfl, rfl, rfl, rfl, rfl, rfl, rfl, rfl⟩

theorem exec_popSpec_allowed {s : State} {list : BitVec 8} (h : isUser s = false ∨ list.getLsbD 7 = false) :
    exec (.popSpec list) s = popSpecial list s := by
  have : ¬(isUser s && list.getLsbD 7) = true := by
    rcases h with h | h <;> rw [h] <;> simp
  exact if_neg this

/-- In plain RAM the words are those of memory and nothing is recorded. -/
theorem popSpecial_plain {s : State} {list : BitVec 8}
    (h : PlainStack (isUser s) (readSp s) (listBits list).length s) :
    ∃ word, (∀ b ∈ listBits list, word b = wordAt s (busLoc (readSp s + 4 * BitVec.ofNat 32 (rankIn list b))))
      ∧ popSpecial list s = .next { s with
        pc := (if list.getLsbD 6 then word 6 else nextAddr s) &&& 0xFFFFFFFE, leris := 0
        sr := { poppedSr list word s with e := false }, spr := poppedSpr list word s } := by
  obtain ⟨ws, hw, hwords⟩ := popWords_ranks h
  exact ⟨_, hwords, popSpecial_completes hw⟩

/-- The statement of a POP is about the words of the listed bits. -/
theorem popsSpecial_congr {s t : State} {list : BitVec 8} {v w : BitVec 3 → Word}
    (h : PopsSpecial s t list v) (hv : ∀ b ∈ listBits list, v b = w b) : PopsSpecial s t list w := by
  obtain ⟨hspr, hends, hsr, hgprs⟩ := h
  refine ⟨hspr.trans (poppedSpr_congr s hv), ?_, hsr, hgprs⟩
  cases h6 : list.getLsbD 6 with
  | true =>
    rw [h6, if_pos rfl, hv 6 ((mem_listBits list 6).mpr h6)] at hends
    exact hends
  | false =>
    rw [h6] at hends
    exact hends

/-- Settles O36: the POP is allowed; its words are read, in plain RAM as they stand there, or one raises. -/
theorem popLoadsSpecialRegisters : Obligations.PopLoadsSpecialRegisters := by
  unfold Obligations.PopLoadsSpecialRegisters
  intro s list hallowed n word
  have hexec := exec_popSpec_allowed hallowed
  have hsuper (h7 : list.getLsbD 7 = true) : isUser s = false := by
    rcases hallowed with h | h
    · exact h
    · rw [h7] at h
      cases h
  refine ⟨fun hplain => ?_, fun ws u h => ?_, fun off u h => ?_⟩
  · obtain ⟨w, hwords, hp⟩ := popSpecial_plain hplain
    refine ⟨_, hexec.trans hp, popsSpecial_congr (popsSpecial_of_completes (.refl s)) hwords, fun h7 => ?_,
      keepsMemory_of_storages rfl rfl rfl, rfl, ⟨rfl, rfl, rfl⟩, ⟨rfl, rfl, rfl, rfl, rfl⟩, rfl⟩
    rw [show word 7 = w 7 from (hwords 7 ((mem_listBits list 7).mpr h7)).symm]
    exact loadsSr_poppedSr (word := w) (hsuper h7) h7 rfl
  · obtain ⟨hlen, hro⟩ := popWords_ok h
    have ha := hro.accessed
    exact ⟨hlen, _, hexec.trans (popSpecial_completes h), popsSpecial_of_completes ha,
      fun h7 => loadsSr_poppedSr (word := poppedWord list ws) (hsuper h7) h7 rfl, hro.memory, rfl, hro.scp,
      ⟨ha.cp1, ha.cp2, ha.cp3⟩, ha.halted, ha.lockup, ha.cfg, rfl, hro.events, hro.stale⟩
  · obtain ⟨he, hframe⟩ := popList_raise h
    exact ⟨hexec.trans he, hframe⟩

/-! ### What user mode gets for the system bits -/

/-- The four instructions ask `UserSysWrite` before they do anything. -/
theorem exec_asksUserSysWrite {s : State} {pos n : BitVec 4} {list : BitVec 8} (hu : isUser s = true)
    (hpos : isSystemField (srFieldAt s.cfg.srLayout pos) = true) (h7 : list.getLsbD 7 = true) :
    exec (.set pos) s = userSysWrite (fun s => .next (retire s)) s
      ∧ exec (.clr pos) s = userSysWrite (fun s => .next (retire s)) s
      ∧ exec (.halt n) s = userSysWrite (fun s => .next (retire s)) s
      ∧ exec (.popSpec list) s = userSysWrite (popSpecial list) s := by
  have hset : (isUser s && isSystemField (srFieldAt s.cfg.srLayout pos)) = true := by simp [hu, hpos]
  have hpop : (isUser s && list.getLsbD 7) = true := by simp only [hu, h7, Bool.and_self]
  exact ⟨if_pos hset, if_pos hset, if_pos hu, if_pos hpop⟩

theorem userSysWrite_refuse {s : State} (ignored : State → Outcome) (h : s.cfg.userSysWrite = .refuse) :
    userSysWrite ignored s = .fault .userSysWrite := by
  simp [userSysWrite, h]

theorem userSysWrite_privilege {s : State} (ignored : State → Outcome) (h : s.cfg.userSysWrite = .privilegeViolation) :
    userSysWrite ignored s = exceptionEntry 0x20 s.pc .normal
      { s with scp := { s.scp with pendingCode := 0b0010, pending := true } } := by
  simp only [userSysWrite, h]
  rfl

theorem userSysWrite_ignore {s : State} (ignored : State → Outcome) (h : s.cfg.userSysWrite = .ignore) :
    userSysWrite ignored s = ignored s := by
  simp [userSysWrite, h]

/-- In user mode a POP of SR loads the flags and keeps the system bits. -/
theorem poppedSr_user {s : State} {list : BitVec 8} {word : BitVec 3 → Word} (hu : isUser s = true)
    (h7 : list.getLsbD 7 = true) : poppedSr list word s = SR.ofWordUser s.cfg.srLayout s.sr (word 7) := by
  rw [poppedSr, h7, hu]
  rfl

/-- Settles O53: each of the four is `UserSysWrite`'s choice, and under `ignore` the POP is carried out. -/
theorem userSystemBits : Obligations.UserSystemBits := by
  unfold Obligations.UserSystemBits
  intro s n pos list hu hpos h7
  obtain ⟨hset, hclr, hhalt, hpop⟩ := exec_asksUserSysWrite (n := n) hu hpos h7
  simp only [List.forall_mem_cons, List.not_mem_nil, IsEmpty.forall_iff, implies_true, and_true, hset, hclr, hhalt, hpop]
  have both (ignored : State → Outcome) :
      (s.cfg.userSysWrite = .refuse → userSysWrite ignored s = .fault .userSysWrite)
        ∧ (s.cfg.userSysWrite = .privilegeViolation → userSysWrite ignored s = exceptionEntry 0x20 s.pc .normal
          { s with scp := { s.scp with pendingCode := 0b0010, pending := true } }) :=
    ⟨userSysWrite_refuse ignored, userSysWrite_privilege ignored⟩
  refine ⟨⟨both _, both _, both _, both _⟩, fun hi => ?_⟩
  simp only [userSysWrite_ignore _ hi]
  have nop : ∃ t, (.next (retire s) : Outcome) = .next t ∧ WritesSpecial s t s.spr ∧ KeepsFlags s t :=
    ⟨_, rfl, writesSpecial_retire rfl (.refl s) rfl, keepsFlags_retire rfl⟩
  refine ⟨⟨nop, nop, nop⟩, fun hplain => ?_⟩
  obtain ⟨word, hwords, hp⟩ := popSpecial_plain (hu.symm ▸ hplain)
  have hsr := poppedSr_user (word := word) hu h7
  refine ⟨_, hp, popsSpecial_congr (popsSpecial_of_completes (.refl s)) hwords, ?_, ?_, keepsMemory_of_storages rfl rfl rfl, rfl,
    ⟨rfl, rfl, rfl⟩, ⟨rfl, rfl, rfl, rfl, rfl⟩, rfl⟩
  · rw [hsr, ← hwords 7 ((mem_listBits list 7).mpr h7)]
    exact ⟨rfl, rfl, rfl, rfl⟩
  · unfold KeepsSystemBits
    rw [hsr]
    exact ⟨rfl, rfl, rfl, rfl, rfl, rfl, rfl⟩

end Sys2Proof.Machine

/-! SUPPORT. Taking an exception and returning from it (60_exceptions.md R530 to R535, R560, R561): an entry whose
accesses complete, one that becomes a Double Fault or lockup, and the instructions that are entries. -/

namespace Sys2Proof.Machine

open Sys2Proof.Safety

/-! ### What an entered handler and a lockup leave -/

/-- An entry from `s` that has ended in its handler. -/
def EntersSupervisor (s : State) (kind : EntryKind) (t : State) : Prop :=
  t.spr = { s.spr with ssp := s.spr.ssp - 8 } ∧ t.sr.mode = .supervisor
    ∧ t.sr.int = false ∧ t.sr.nmi = (s.sr.nmi && kind = .normal) ∧ t.halted = false
    ∧ t.lockup = s.lockup ∧ KeepsFlags s t ∧ KeepsGprs s t [] ∧ KeepsCoprocs s t ∧ t.cfg = s.cfg

/-- An entry from `s` that has ended in lockup. -/
def LocksUp (s t : State) : Prop :=
  t.lockup = true ∧ t.pc = s.pc ∧ t.leris = 0 ∧ t.spr = s.spr
    ∧ t.sr = { s.sr with e := false } ∧ KeepsGprs s t [] ∧ KeepsCoprocs s t ∧ t.cfg = s.cfg

theorem entersSupervisor_enterHandler {s u : State} (h : Accessed s u) (kind : EntryKind) (handler : Word) :
    EntersSupervisor s kind (enterHandler kind handler u) := by
  refine ⟨?_, rfl, rfl, ?_, rfl, h.lockup, ?_, keepsGprs_of_gpr h.gpr [], ⟨h.cp1, h.cp2, h.cp3⟩, h.cfg⟩
  · rw [← h.spr]
    rfl
  · rw [← h.sr]
    cases kind
    · exact (Bool.and_true _).symm
    · exact (Bool.and_false _).symm
  · unfold KeepsFlags
    rw [← h.sr]
    exact ⟨rfl, rfl, rfl, rfl⟩

theorem locksUp_lockUp {s u : State} (h : Accessed s u) : LocksUp s (lockUp u) := by
  refine ⟨rfl, h.pc, rfl, h.spr, ?_, keepsGprs_of_gpr h.gpr [], ⟨h.cp1, h.cp2, h.cp3⟩, h.cfg⟩
  rw [← h.sr]
  rfl

theorem byteAt_enterHandler (kind : EntryKind) (handler : Word) (u : State) (l : Loc) :
    (enterHandler kind handler u).byteAt l = u.byteAt l := byteAt_of_storages rfl rfl rfl l

theorem wordAt_enterHandler (kind : EntryKind) (handler : Word) (u : State) (l : Loc) :
    wordAt (enterHandler kind handler u) l = wordAt u l :=
  wordAt_congr rfl fun _ _ => byteAt_enterHandler _ _ _ _

/-! ### An entry in plain RAM -/

/-- An entry whose stack and vector lie in plain RAM has ended in its handler. -/
structure PlainEntry (s t : State) (off savedPc : Word) (kind : EntryKind) : Prop where
  srWord : wordAt t (busLoc (s.spr.ssp - 4)) = SR.toWord s.cfg.srLayout { s.sr with e := false }
  pcWord : wordAt t (busLoc (s.spr.ssp - 8)) = savedPc
  frame : ∀ m, Outside (busLoc (s.spr.ssp - 4)) 4 m → Outside (busLoc (s.spr.ssp - 8)) 4 m → t.byteAt m = s.byteAt m
  enters : EntersSupervisor s kind t
  sr : t.sr = { s.sr with modeHi := false, modeLo := false, int := false, e := false, nmi := t.sr.nmi }
  ends : UnitEnds t (wordAt t (busLoc (vectorAddr off s)))
  scp : t.scp = s.scp
  env : t.env = s.env
  events : t.events = s.events

theorem exceptionEntry_plain {s : State} {off : Word} (savedPc : Word) (kind : EntryKind)
    (hstack : PlainStack false (s.spr.ssp - 8) 2 s) (hvector : PlainRam false (vectorAddr off s) s)
    (haligned : (vectorAddr off s).extractLsb' 0 2 = 0) :
    ∃ t, exceptionEntry off savedPc kind s = .next t ∧ PlainEntry s t off savedPc kind := by
  obtain ⟨u, he, ha, hscp, henv, hevents, hsr, hpc, hbytes⟩ :=
    exceptionEntry_plainRam (savedPc := savedPc) (kind := kind) hstack hvector haligned
  refine ⟨_, he, (wordAt_enterHandler _ _ _ _).trans hsr, (wordAt_enterHandler _ _ _ _).trans hpc,
    fun m h4 h8 => (byteAt_enterHandler _ _ _ _).trans (hbytes m h4 h8), entersSupervisor_enterHandler ha _ _, ?_, ?_,
    hscp, henv, hevents⟩
  · rw [← ha.sr]
    rfl
  · rw [wordAt_enterHandler]
    exact unitEnds_jumpTo _ _

/-- Settles O37: with stack and vector in plain RAM the three accesses complete and the handler is entered. -/
theorem exceptionEntryEffect : Obligations.ExceptionEntryEffect := by
  unfold Obligations.ExceptionEntryEffect
  intro s off savedPc kind hstack hvector haligned
  obtain ⟨t, he, h⟩ := exceptionEntry_plain savedPc kind hstack hvector haligned
  obtain ⟨hspr, -, -, hnmi, hhalted, hlockup, -, hgprs, hcoprocs, hcfg⟩ := h.enters
  refine ⟨fun hf => ?_, fun hf => ?_, t, he, h.srWord, h.pcWord, h.frame, hspr, h.sr, fun hk => ?_, fun hk => ?_, h.ends,
    hhalted, hgprs, h.scp, hcoprocs, hlockup, hcfg, h.env, h.events⟩
  · simp [vectorAddr, hf]
  · simp [vectorAddr, hf]
  · simpa [hk] using hnmi
  · simpa [hk] using hnmi

/-! ### States in which an access is checked alike -/

/-- What the checks of a supervisor access without translation depend on. -/
structure SameChecks (s t : State) : Prop where
  cfg : t.cfg = s.cfg
  spm : t.scp.spm = s.scp.spm
  memoryBank : t.scp.memoryBank = s.scp.memoryBank
  subBanks : t.scp.subBanks = s.scp.subBanks

theorem SameChecks.trans {s t u : State} (h : SameChecks s t) (k : SameChecks t u) : SameChecks s u :=
  ⟨k.cfg.trans h.cfg, k.spm.trans h.spm, k.memoryBank.trans h.memoryBank, k.subBanks.trans h.subBanks⟩

theorem sameChecks_of_scp {s t : State} (hs : t.scp = s.scp) (hc : t.cfg = s.cfg) : SameChecks s t :=
  ⟨hc, by rw [hs], by rw [hs], by rw [hs]⟩

theorem SameChecks.spmHits {s t : State} (h : SameChecks s t) (va : Word) : spmHits t va = spmHits s va := by
  simp only [Machine.spmHits, h.cfg, h.spm]

theorem SameChecks.bankNibble {s t : State} (h : SameChecks s t) (va : Word) : bankNibble t va = bankNibble s va := by
  simp only [Machine.bankNibble, h.memoryBank]

theorem SameChecks.plainRam {s t : State} (h : SameChecks s t) {user : Bool} {va : Word} (p : PlainRam user va s) :
    PlainRam user va t := by
  refine ⟨?_, ?_, ?_, ?_, ?_⟩
  · rw [h.spmHits]
    exact p.noSpm
  · rw [h.bankNibble, h.cfg]
    exact p.noTlb
  · rw [h.subBanks]
    exact p.noSubBank
  · rw [h.bankNibble]
    exact p.right
  · rw [h.cfg]
    exact p.ram

theorem SameChecks.plainStack {s t : State} (h : SameChecks s t) {user : Bool} {bottom : Word} {n : Nat}
    (p : PlainStack user bottom n s) : PlainStack user bottom n t :=
  ⟨p.1, fun k hk => h.plainRam (p.2 k hk)⟩

theorem SameChecks.noMemoryAt {s t : State} (h : SameChecks s t) {va : Word} (p : NoMemoryAt va s) : NoMemoryAt va t := by
  refine ⟨?_, ?_, ?_, ?_⟩
  · rw [h.spmHits]
    exact p.noSpm
  · rw [h.bankNibble, h.cfg]
    exact p.noTlb
  · rw [h.subBanks]
    exact p.noSubBank
  · rw [h.cfg]
    exact p.hole

/-! ### Accesses that raise -/

/-- A data access where the platform has nothing. -/
theorem locate_noMemory {k : AccessKind} {va : Word} {s : State} (hk : k ≠ .fetch) (h : NoMemoryAt va s)
    (ha : va.toNat % 4 = 0) :
    locate k false .word va s = .raise 0x10 { s with scp := { s.scp with dbusError := va } } := by
  have htlb : ((bankNibble s va).getLsbD 3 && s.cfg.tlbConfig != .none) = false := by
    rcases h.noTlb with h | h <;> rw [h] <;> simp
  have hsub : s.scp.subBanks.toList.filter (subBankMatches va) = [] :=
    List.filter_eq_nil_iff.mpr fun b hb => by simp [h.noSubBank b hb]
  obtain ⟨-, -, -, hole⟩ := locateBus_cases k va ((bankNibble s va).extractLsb' 0 2) s
  rw [locate_aligned (.inr ha), h.noSpm, htlb]
  simp only [Bool.false_eq_true, if_false, locateMbmu, hsub, Bool.false_and]
  rw [hole h.hole]
  simp [hk]

/-- A data access whose address has no entry in the TLB. -/
theorem locate_tlbMiss {va : Word} {s : State} (h : TlbMissAt va s) (ha : va.toNat % 4 = 0) :
    locate .read false .word va s
      = .raise 0x20 { s with scp := { s.scp with dtlbMiss := va, pendingCode := 0b0101, pending := true } } := by
  have htlb : ((bankNibble s va).getLsbD 3 && s.cfg.tlbConfig != .none) = true := by
    simp only [h.bank, Bool.true_and, bne_iff_ne, ne_eq]
    exact h.tlb
  rw [locate_aligned (.inr ha), h.noSpm, htlb]
  simp only [if_true, locateTlb, h.miss]
  rfl

theorem tlbMissAt_congr {s t : State} {va : Word} (hs : t.scp = s.scp) (hc : t.cfg = s.cfg) (h : TlbMissAt va s) :
    TlbMissAt va t := by
  have c := sameChecks_of_scp hs hc
  refine ⟨?_, ?_, ?_, ?_⟩
  · rw [c.spmHits]
    exact h.noSpm
  · rw [c.bankNibble]
    exact h.bank
  · rw [hc]
    exact h.tlb
  · have hm := h.miss
    unfold tlbHits readTlb at hm ⊢
    simpa only [hs, hc] using hm

theorem memReadAs_raise {user : Bool} {z : AccessSize} {va off : Word} {s u : State}
    (h : locate .read user z va s = .raise off u) : memReadAs user z va s = .raise off u := by
  simp [memReadAs, h, andThen]

theorem memWriteAs_raise {user : Bool} {z : AccessSize} {va v off : Word} {s u : State}
    (h : locate .write user z va s = .raise off u) : memWriteAs user z va v s = .raise off u := by
  simp [memWriteAs, h, andThen]

/-! ### The accesses of an entry, one at a time -/

/-- The frame stored in plain RAM, before the vector is read. -/
structure FrameStored (s w : State) (srWord savedPc : Word) : Prop where
  accessed : Accessed s w
  scp : w.scp = s.scp
  events : w.events = s.events
  srAt : wordAt w (busLoc (s.spr.ssp - 4)) = srWord
  pcAt : wordAt w (busLoc (s.spr.ssp - 8)) = savedPc
  frame : ∀ m, Outside (busLoc (s.spr.ssp - 4)) 4 m → Outside (busLoc (s.spr.ssp - 8)) 4 m → w.byteAt m = s.byteAt m

/-- The first word of the frame stored in plain RAM. -/
structure FirstStored (s w : State) (srWord : Word) : Prop where
  accessed : Accessed s w
  scp : w.scp = s.scp
  events : w.events = s.events
  srAt : wordAt w (busLoc (s.spr.ssp - 4)) = srWord
  frame : KeepsMemoryOutside s w (busLoc (s.spr.ssp - 4)) 4

theorem entryAccesses_firstStored {s : State} (a : Word) (haligned : s.spr.ssp.toNat % 4 = 0)
    (h : PlainRam false (s.spr.ssp - 4) s) : ∃ w, FirstStored s w a ∧ ∀ b v, entryAccesses a b v s
      = andThen (memWriteAs false .word (s.spr.ssp - 8) b w) fun _ u => memReadAs false .word v u := by
  obtain ⟨c, hc⟩ := memWriteAs_plainRam (v := a) h ((aligned_iff _).mpr (by bv_omega))
  refine ⟨_, ⟨accessed_storeAt .word (busLoc (s.spr.ssp - 4)) c a s, storeAt_scp _ _ _ _ _, storeAt_events _ _ _ _ _,
    wordAt_storeAt_same _ _ _ _, keepsMemoryOutside_storeAt .word _ _ _ _⟩, fun b v => ?_⟩
  rw [entryAccesses, hc]
  rfl

theorem entryAccesses_frameStored {s : State} (a b : Word) (h : PlainStack false (s.spr.ssp - 8) 2 s) :
    ∃ w, FrameStored s w a b ∧ ∀ v, entryAccesses a b v s = memReadAs false .word v w := by
  obtain ⟨h0, hk⟩ := h
  rw [extract_two_iff] at h0
  have k0 := hk 0 (by decide)
  have k1 := hk 1 (by decide)
  rw [show s.spr.ssp - 8 + 4 * BitVec.ofNat 32 0 = s.spr.ssp - 8 by bv_omega] at k0
  rw [show s.spr.ssp - 8 + 4 * BitVec.ofNat 32 1 = s.spr.ssp - 4 by bv_omega] at k1
  obtain ⟨w, hw, hentry⟩ := entryAccesses_firstStored a (by bv_omega) k1
  obtain ⟨d, hd⟩ := memWriteAs_plainRam (v := b) ((sameChecks_of_scp hw.scp hw.accessed.cfg).plainRam k0)
    ((aligned_iff _).mpr h0)
  have ha := hw.accessed.trans (accessed_storeAt .word (busLoc (s.spr.ssp - 8)) d b w)
  refine ⟨_, ⟨ha, (storeAt_scp _ _ _ _ _).trans hw.scp, (storeAt_events _ _ _ _ _).trans hw.events, ?_,
    wordAt_storeAt_same _ _ _ _, fun m h4 h8 => ?_⟩, fun v => ?_⟩
  · rw [wordAt_storeAt_other _ _ _ (by simp only [busLoc]; bv_omega)]
    exact hw.srAt
  · exact (keepsMemoryOutside_storeAt .word _ _ _ _ m h8).trans (hw.frame m h4)
  · rw [hentry, hd]
    rfl

/-! ### Double Fault and lockup -/

theorem exceptionEntry_doubleFault {s u : State} {off savedPc o : Word} (kind : EntryKind)
    (h : entryAccesses (savedSr s) savedPc (vectorAddr off s) s = .raise o u) :
    exceptionEntry off savedPc kind s = doubleFault (savedSr s) savedPc kind u := by
  rw [exceptionEntry, h]

theorem accessed_of_entryRaise {a b v o : Word} {s u : State} (h : entryAccesses a b v s = .raise o u) :
    Accessed s u := by
  have ha := accKeeps_entryAccesses a b v s
  rwa [h] at ha

theorem accessed_of_entryOk {a b v x : Word} {s u : State} (h : entryAccesses a b v s = .ok x u) : Accessed s u := by
  have ha := accKeeps_entryAccesses a b v s
  rwa [h] at ha

/-- An entry that raises, and whose Double Fault completes. -/
theorem doubleFault_enters {s u w : State} {off savedPc o handler : Word} (kind : EntryKind)
    (h : entryAccesses (savedSr s) savedPc (vectorAddr off s) s = .raise o u)
    (k : entryAccesses (savedSr s) savedPc 0x0C u = .ok handler w) :
    exceptionEntry off savedPc kind s = .next (enterHandler kind handler w) ∧ Accessed s w := by
  refine ⟨?_, (accessed_of_entryRaise h).trans (accessed_of_entryOk k)⟩
  rw [exceptionEntry_doubleFault kind h, doubleFault, k]

/-- An entry that raises, and whose Double Fault raises too. -/
theorem doubleFault_locksUp {s u w : State} {off savedPc o o' : Word} (kind : EntryKind)
    (h : entryAccesses (savedSr s) savedPc (vectorAddr off s) s = .raise o u)
    (k : entryAccesses (savedSr s) savedPc 0x0C u = .raise o' w) :
    exceptionEntry off savedPc kind s = .next (lockUp w) ∧ Accessed s w := by
  refine ⟨?_, (accessed_of_entryRaise h).trans (accessed_of_entryRaise k)⟩
  rw [exceptionEntry_doubleFault kind h, doubleFault, k]

/-- The vector read raises, having recorded `scp`, and the Double Fault completes in plain RAM. -/
theorem doubleFault_of_vector {s : State} {off savedPc o : Word} (kind : EntryKind) {scp : Scp}
    (hstack : PlainStack false (s.spr.ssp - 8) 2 s) (hvector : PlainRam false 0x0C s)
    (hscp : SameChecks s { s with scp := scp })
    (hraise : ∀ w : State, w.scp = s.scp → w.cfg = s.cfg →
      memReadAs false .word (vectorAddr off s) w = .raise o { w with scp := scp }) :
    ∃ t, exceptionEntry off savedPc kind s = .next t ∧ EntersSupervisor s kind t
      ∧ wordAt t (busLoc (s.spr.ssp - 4)) = savedSr s ∧ wordAt t (busLoc (s.spr.ssp - 8)) = savedPc
      ∧ (∀ m, Outside (busLoc (s.spr.ssp - 4)) 4 m → Outside (busLoc (s.spr.ssp - 8)) 4 m →
        t.byteAt m = s.byteAt m)
      ∧ UnitEnds t (wordAt t (busLoc 0x0C)) ∧ t.scp = scp ∧ t.events = s.events := by
  obtain ⟨w, hw, hentry⟩ := entryAccesses_frameStored (savedSr s) savedPc hstack
  have first := (hentry (vectorAddr off s)).trans (hraise w hw.scp hw.accessed.cfg)
  have hspr : ({ w with scp := scp } : State).spr = s.spr := hw.accessed.spr
  have checks : SameChecks s { w with scp := scp } :=
    ⟨hw.accessed.cfg, hscp.spm, hscp.memoryBank, hscp.subBanks⟩
  obtain ⟨x, hx, hagain⟩ := entryAccesses_frameStored (s := { w with scp := scp }) (savedSr s) savedPc
    (hspr.symm ▸ checks.plainStack hstack)
  have second := (hagain 0x0C).trans (memReadAs_plainRam
    ((checks.trans (sameChecks_of_scp hx.scp hx.accessed.cfg)).plainRam hvector) (by decide))
  obtain ⟨he, ha⟩ := doubleFault_enters kind first second
  have hsr := hx.srAt
  have hpc := hx.pcAt
  have hframe := hx.frame
  rw [hspr] at hsr hpc hframe
  refine ⟨_, he, entersSupervisor_enterHandler ha _ _, (wordAt_enterHandler _ _ _ _).trans hsr,
    (wordAt_enterHandler _ _ _ _).trans hpc, fun m h4 h8 => ?_, ?_, hx.scp, hx.events.trans hw.events⟩
  · rw [byteAt_enterHandler, hframe m h4 h8]
    exact (byteAt_of_storages (s := w) rfl rfl rfl m).trans (hw.frame m h4 h8)
  · rw [wordAt_enterHandler]
    exact unitEnds_jumpTo _ _

/-- Nothing at the second word of the frame: the first is stored, and the address is latched. -/
theorem entryAccesses_noSecond {s : State} (a b v : Word) (haligned : s.spr.ssp.toNat % 4 = 0)
    (h4 : PlainRam false (s.spr.ssp - 4) s) (h8 : NoMemoryAt (s.spr.ssp - 8) s) :
    ∃ w, FirstStored s w a
      ∧ entryAccesses a b v s = .raise 0x10 { w with scp := { s.scp with dbusError := s.spr.ssp - 8 } } := by
  obtain ⟨w, hw, hentry⟩ := entryAccesses_firstStored a haligned h4
  refine ⟨w, hw, ?_⟩
  rw [hentry, memWriteAs_raise (locate_noMemory (by decide)
    ((sameChecks_of_scp hw.scp hw.accessed.cfg).noMemoryAt h8) (by bv_omega)), hw.scp]
  rfl

/-- Nothing at the first word of the frame: the address is latched and nothing is stored. -/
theorem entryAccesses_noFirst {s : State} (a b v : Word) (haligned : s.spr.ssp.toNat % 4 = 0)
    (h4 : NoMemoryAt (s.spr.ssp - 4) s) :
    entryAccesses a b v s = .raise 0x10 { s with scp := { s.scp with dbusError := s.spr.ssp - 4 } } := by
  rw [entryAccesses, memWriteAs_raise (locate_noMemory (by decide) h4 (by bv_omega))]
  rfl

theorem sameChecks_latched (s : State) (a : Word) : SameChecks s { s with scp := { s.scp with dbusError := a } } :=
  ⟨rfl, rfl, rfl, rfl⟩

theorem lockup_noSecond {s : State} {off savedPc : Word} (kind : EntryKind) (haligned : s.spr.ssp.toNat % 4 = 0)
    (h4 : PlainRam false (s.spr.ssp - 4) s) (h8 : NoMemoryAt (s.spr.ssp - 8) s) :
    ∃ t, exceptionEntry off savedPc kind s = .next t ∧ LocksUp s t ∧ t.events = s.events ++ [.pmuError]
      ∧ wordAt t (busLoc (s.spr.ssp - 4)) = savedSr s ∧ KeepsMemoryOutside s t (busLoc (s.spr.ssp - 4)) 4
      ∧ t.scp = { s.scp with dbusError := s.spr.ssp - 8 } := by
  obtain ⟨w, hw, first⟩ := entryAccesses_noSecond (savedSr s) savedPc (vectorAddr off s) haligned h4 h8
  have hspr : ({ w with scp := { s.scp with dbusError := s.spr.ssp - 8 } } : State).spr = s.spr := hw.accessed.spr
  have checks : SameChecks s { w with scp := { s.scp with dbusError := s.spr.ssp - 8 } } :=
    ⟨hw.accessed.cfg, rfl, rfl, rfl⟩
  obtain ⟨x, hx, second⟩ := entryAccesses_noSecond (s := { w with scp := { s.scp with dbusError := s.spr.ssp - 8 } })
    (savedSr s) savedPc 0x0C (hspr.symm ▸ haligned) (hspr.symm ▸ checks.plainRam h4)
    (hspr.symm ▸ checks.noMemoryAt h8)
  obtain ⟨he, ha⟩ := doubleFault_locksUp kind first second
  have hsr := hx.srAt
  have hframe := hx.frame
  rw [hspr] at hsr hframe
  refine ⟨_, he, locksUp_lockUp ha, ?_, ?_, fun m hm => ?_, ?_⟩
  · exact congrArg (· ++ [Event.pmuError]) (hx.events.trans hw.events)
  · rw [← hsr]
    exact wordAt_congr rfl fun _ _ => byteAt_of_storages rfl rfl rfl _
  · refine (byteAt_of_storages (s := x) rfl rfl rfl m).trans ((hframe m hm).trans ?_)
    exact (byteAt_of_storages (s := w) rfl rfl rfl m).trans (hw.frame m hm)
  · rw [← hw.accessed.spr]
    rfl

theorem lockup_noFirst {s : State} {off savedPc : Word} (kind : EntryKind) (haligned : s.spr.ssp.toNat % 4 = 0)
    (h4 : NoMemoryAt (s.spr.ssp - 4) s) :
    ∃ t, exceptionEntry off savedPc kind s = .next t ∧ LocksUp s t ∧ t.events = s.events ++ [.pmuError]
      ∧ KeepsMemory s t ∧ t.scp = { s.scp with dbusError := s.spr.ssp - 4 } := by
  have first := entryAccesses_noFirst (savedSr s) savedPc (vectorAddr off s) haligned h4
  have second := entryAccesses_noFirst (s := { s with scp := { s.scp with dbusError := s.spr.ssp - 4 } })
    (savedSr s) savedPc 0x0C haligned ((sameChecks_latched s _).noMemoryAt h4)
  obtain ⟨he, ha⟩ := doubleFault_locksUp kind first second
  exact ⟨_, he, locksUp_lockUp ha, rfl, keepsMemory_of_storages rfl rfl rfl, rfl⟩

/-- Settles O38: what the two rounds of accesses answer decides between the handler and lockup. -/
theorem doubleFaultAndLockup : Obligations.DoubleFaultAndLockup := by
  unfold Obligations.DoubleFaultAndLockup
  intro s off savedPc kind va srWord entered locked
  refine ⟨fun o u h => ⟨fun handler w k => ?_, fun o' w k => ?_⟩, fun hstack hvector haligned scp hscp => ?_,
    fun haligned h4 h8 => lockup_noSecond kind ((extract_two_iff _).mp haligned) h4 h8,
    fun haligned h4 => lockup_noFirst kind ((extract_two_iff _).mp haligned) h4⟩
  · obtain ⟨he, ha⟩ := doubleFault_enters kind h k
    exact ⟨_, he, entersSupervisor_enterHandler ha _ _, unitEnds_jumpTo _ _, fun l => byteAt_enterHandler _ _ _ l, rfl,
      rfl⟩
  · obtain ⟨he, ha⟩ := doubleFault_locksUp kind h k
    exact ⟨_, he, locksUp_lockUp ha, rfl, keepsMemory_of_storages rfl rfl rfl, rfl⟩
  · have hva := (extract_two_iff _).mp haligned
    rcases hscp with ⟨hnone, rfl⟩ | ⟨hmiss, rfl⟩
    · refine doubleFault_of_vector (o := 0x10) kind hstack hvector ⟨rfl, rfl, rfl, rfl⟩ fun w hs hc => ?_
      rw [memReadAs_raise (locate_noMemory (by decide) ((sameChecks_of_scp hs hc).noMemoryAt hnone) hva), hs]
    · refine doubleFault_of_vector (o := 0x20) kind hstack hvector ⟨rfl, rfl, rfl, rfl⟩ fun w hs hc => ?_
      rw [memReadAs_raise (locate_tlbMiss (tlbMissAt_congr hs hc hmiss) hva), hs]

/-! ### SWI, and SWI with its return -/

/-- SWI is an entry at its vector with the next address saved. -/
theorem exec_swi (n : BitVec 4) (s : State) :
    exec (.swi n) s = exceptionEntry (0x40 + 4 * n.setWidth 32) (nextAddr s) .normal s := rfl

theorem swiOffset_eq (n : BitVec 4) : 0x40 + 4 * n.setWidth 32 = BitVec.ofNat 32 (0x40 + 4 * n.toNat) := by
  have := n.isLt
  bv_omega

/-- Settles O40: SWI is the entry itself, and in plain RAM it completes. -/
theorem softwareInterrupt : Obligations.SoftwareInterrupt := by
  unfold Obligations.SoftwareInterrupt
  intro n s
  have hexec := exec_swi n s
  rw [swiOffset_eq] at hexec
  refine ⟨hexec, fun hstack hvector haligned => ?_⟩
  obtain ⟨t, he, h⟩ := exceptionEntry_plain (nextAddr s) .normal hstack hvector haligned
  obtain ⟨-, hmode, -, -, -, -, hflags, hgprs, -, -⟩ := h.enters
  exact ⟨t, hexec.trans he, h.pcWord, hmode, hflags, hgprs⟩

theorem listBits_pcSr : (listBits 0xC0).length = 2 ∧ rankIn 0xC0 6 = 0 ∧ rankIn 0xC0 7 = 1
    ∧ (6#3 ∈ listBits 0xC0) ∧ (7#3 ∈ listBits 0xC0) := by decide

/-- The special registers after PC and SR are popped in supervisor mode. -/
theorem poppedSpr_pcSr {t : State} (word : BitVec 3 → Word) (ht : isUser t = false) :
    poppedSpr 0xC0 word t = { t.spr with ssp := (t.spr.ssp + 8) &&& 0xFFFFFFFC } := by
  obtain ⟨hlen, -⟩ := listBits_pcSr
  have hsp : readSp t = t.spr.ssp := by rw [readSp, ht]; rfl
  rw [poppedSpr, hlen, hsp, ht]
  rfl

/-- Settles O39: the entry leaves SR and PC in its frame, and the POP reads them back. -/
theorem swiThenReturnRestores : Obligations.SwiThenReturnRestores := by
  unfold Obligations.SwiThenReturnRestores
  intro n s hlayout _ hstack hvector haligned
  obtain ⟨t, he, h⟩ := exceptionEntry_plain (nextAddr s) .normal hstack hvector haligned
  obtain ⟨hspr, hmode, -, -, -, -, -, hgprs, hcoprocs, hcfg⟩ := h.enters
  obtain ⟨hlen, hrank6, hrank7, hmem6, hmem7⟩ := listBits_pcSr
  have huser : isUser t = false := by rw [isUser, hmode]; rfl
  have hssp : t.spr.ssp = s.spr.ssp - 8 := by rw [hspr]
  have hsp : readSp t = s.spr.ssp - 8 := by rw [readSp, huser, ← hssp]; rfl
  have hplain : PlainStack (isUser t) (readSp t) (listBits 0xC0).length t := by
    rw [huser, hsp, hlen]
    exact (sameChecks_of_scp h.scp hcfg).plainStack hstack
  obtain ⟨word, hwords, hp⟩ := popSpecial_plain hplain
  have pcWord : word 6 = nextAddr s := by
    rw [hwords 6 hmem6, hrank6, hsp, show s.spr.ssp - 8 + 4 * BitVec.ofNat 32 0 = s.spr.ssp - 8 by bv_omega]
    exact h.pcWord
  have srWord : word 7 = SR.toWord s.cfg.srLayout { s.sr with e := false } := by
    rw [hwords 7 hmem7, hrank7, hsp, show s.spr.ssp - 8 + 4 * BitVec.ofNat 32 1 = s.spr.ssp - 4 by bv_omega]
    exact h.srWord
  have hsr : poppedSr 0xC0 word t = { s.sr with e := false } := by
    have hpop : poppedSr 0xC0 word t = SR.ofWord t.cfg.srLayout t.sr (word 7) := by rw [poppedSr, huser]; rfl
    rw [hpop, srWord, hcfg]
    exact ofWord_toWord hlayout _ _ rfl (by rw [h.sr])
  have hrestored : poppedSpr 0xC0 word t = s.spr := by
    have halign := (extract_two_iff _).mp hstack.1
    rw [poppedSpr_pcSr word huser, hspr, BitVec.sub_add_cancel, and_stackMask_of_aligned (by bv_omega)]
  refine ⟨t, _, he, hmode, (exec_popSpec_allowed (.inl huser)).trans hp, ⟨?_, rfl, rfl⟩, ?_, hrestored, ?_, h.scp, hcoprocs,
    fun m h4 h8 => (byteAt_of_storages (s := t) rfl rfl rfl m).trans (h.frame m h4 h8)⟩
  · show word 6 &&& 0xFFFFFFFE = _
    rw [pcWord]
  · show { poppedSr 0xC0 word t with e := false } = _
    rw [hsr]
  · exact keepsGprs_trans hgprs (keepsGprs_of_gpr rfl [])

/-! ### Reserved and unimplemented encodings -/

/-- What latching the backup registers records and leaves. -/
theorem latchBackup_facts (w : Half) (s : State) :
    (latchBackup w s).scp = { s.scp with
        backupIr := w, backupEr := (latchBackup w s).scp.backupEr, backupPc := nextAddr s - 2 }
      ∧ (s.sr.e = true → (latchBackup w s).scp.backupEr = s.spr.er) ∧ (latchBackup w s).gpr = s.gpr
      ∧ (latchBackup w s).spr = s.spr ∧ (latchBackup w s).sr = s.sr ∧ KeepsMemory s (latchBackup w s)
      ∧ (latchBackup w s).pc = s.pc ∧ (latchBackup w s).cfg = s.cfg := by
  obtain ⟨d, er, h, her⟩ := latchBackup_frame w s
  rw [h]
  exact ⟨rfl, her, rfl, rfl, rfl, keepsMemory_of_storages rfl rfl rfl, rfl, rfl⟩

theorem sameChecks_latchBackup (w : Half) (s : State) : SameChecks s (latchBackup w s) := by
  obtain ⟨d, er, h, -⟩ := latchBackup_frame w s
  rw [h]
  exact ⟨rfl, rfl, rfl, rfl⟩

theorem vectorAddr_latchBackup (off : Word) (w : Half) (s : State) :
    vectorAddr off (latchBackup w s) = vectorAddr off s := by
  obtain ⟨d, er, h, -⟩ := latchBackup_frame w s
  rw [h]
  rfl

/-- A reserved halfword: a NOP, or the backup registers latched and the UDI entry. -/
theorem undefined_of_exec {i : Instr} {s : State} (h : exec i s = undefinedInstruction (encode i) s) :
    (s.cfg.udiMode = .nop → ∃ t, exec i s = .next t ∧ WritesSpecial s t s.spr ∧ KeepsFlags s t)
      ∧ (s.cfg.udiMode = .raise → ∃ u, exec i s = exceptionEntry 0x38 s.pc .normal u
        ∧ u.scp = { s.scp with
            backupIr := encode i, backupEr := u.scp.backupEr, backupPc := nextAddr s - 2 }
        ∧ (s.sr.e = true → u.scp.backupEr = s.spr.er) ∧ u.gpr = s.gpr ∧ u.spr = s.spr ∧ u.sr = s.sr
        ∧ KeepsMemory s u
        ∧ (PlainStack false (s.spr.ssp - 8) 2 s → PlainRam false (vectorAddr 0x38 s) s →
          (vectorAddr 0x38 s).extractLsb' 0 2 = 0 →
          ∃ t, exec i s = .next t ∧ wordAt t (busLoc (s.spr.ssp - 8)) = s.pc
            ∧ t.sr.mode = .supervisor ∧ t.scp = u.scp ∧ KeepsGprs s t [] ∧ KeepsFlags s t)) := by
  refine ⟨fun hm => ?_, fun hm => ?_⟩
  · have hnop : exec i s = .next (retire s) := by rw [h, undefinedInstruction, hm]
    exact ⟨_, hnop, writesSpecial_retire rfl (.refl s) rfl, keepsFlags_retire rfl⟩
  · obtain ⟨hscp, her, hgpr, hspr, hsr, hmem, hpc, -⟩ := latchBackup_facts (encode i) s
    have hentry : exec i s = exceptionEntry 0x38 s.pc .normal (latchBackup (encode i) s) := by
      rw [h, undefinedInstruction, hm, ← hpc]
      rfl
    have checks := sameChecks_latchBackup (encode i) s
    have hvec := vectorAddr_latchBackup 0x38 (encode i) s
    refine ⟨_, hentry, hscp, her, hgpr, hspr, hsr, hmem, fun hstack hvector haligned => ?_⟩
    obtain ⟨t, he, p⟩ := exceptionEntry_plain (s := latchBackup (encode i) s) (off := 0x38) s.pc .normal
      (hspr.symm ▸ checks.plainStack hstack) (hvec.symm ▸ checks.plainRam hvector) (hvec.symm ▸ haligned)
    obtain ⟨-, hmode, -, -, -, -, hflags, hgprs, -, -⟩ := p.enters
    refine ⟨t, hentry.trans he, ?_, hmode, p.scp, keepsGprs_trans (keepsGprs_of_gpr hgpr []) hgprs, ?_⟩
    · rw [← hspr]
      exact p.pcWord
    · unfold KeepsFlags at hflags ⊢
      rwa [hsr] at hflags

/-- Settles O41: each reserved row is `undefinedInstruction` of its own halfword. -/
theorem reservedEncodings : Obligations.ReservedEncodings := by
  unfold Obligations.ReservedEncodings
  intro s b7 b4 cp b6 b5
  simp only [List.forall_mem_cons, List.not_mem_nil, IsEmpty.forall_iff, implies_true, and_true]
  exact ⟨undefined_of_exec rfl, undefined_of_exec rfl, undefined_of_exec rfl, undefined_of_exec rfl,
    undefined_of_exec rfl, undefined_of_exec rfl, undefined_of_exec rfl⟩

/-- Without the option an instruction of it latches the backup registers and enters. -/
theorem unimplemented_of_exec {i : Instr} {s : State} (h : exec i s = unimplementedInstruction (encode i) s) :
    ∃ u, exec i s = exceptionEntry 0x3C s.pc .normal u
      ∧ u.scp = { s.scp with
          backupIr := encode i, backupEr := u.scp.backupEr, backupPc := nextAddr s - 2 }
      ∧ (s.sr.e = true → u.scp.backupEr = s.spr.er) ∧ u.gpr = s.gpr ∧ u.spr = s.spr ∧ u.sr = s.sr
      ∧ KeepsMemory s u := by
  obtain ⟨hscp, her, hgpr, hspr, hsr, hmem, hpc, -⟩ := latchBackup_facts (encode i) s
  refine ⟨_, ?_, hscp, her, hgpr, hspr, hsr, hmem⟩
  rw [h, ← hpc]
  rfl

/-- Settles O42: each of the 29 is guarded by the option. -/
theorem unimplementedDspInstructions : Obligations.UnimplementedDspInstructions := by
  unfold Obligations.UnimplementedDspInstructions
  intro s r q d hoff i hi
  have guard : ¬s.cfg.dspExt = true := by simp [hoff]
  apply unimplemented_of_exec
  simp only [List.mem_cons, List.not_mem_nil, or_false] at hi
  rcases hi with rfl | rfl | rfl | rfl | rfl | rfl | rfl | rfl | rfl | rfl | rfl | rfl | rfl | rfl | rfl | rfl | rfl
    | rfl | rfl | rfl | rfl | rfl | rfl | rfl | rfl | rfl | rfl | rfl | rfl <;> exact if_neg guard

end Sys2Proof.Machine

/-! SUPPORT. The access path (20_memory.md sections 2 to 7): an access with and without translation, in a
scratch-pad region, and what is stale after a store and after its maintenance. -/

namespace Sys2Proof.Machine

open Sys2Proof.Safety

/-! ### Without translation -/

theorem locate_untranslated {kind : AccessKind} {user : Bool} {size : AccessSize} {va : Word} {s : State}
    (h : kind = .fetch ∨ va.toNat % sizeBytes size = 0) (hspm : spmHits s va = [])
    (htlb : (bankNibble s va).getLsbD 3 = false ∨ s.cfg.tlbConfig = .none) :
    locate kind user size va s = locateMbmu kind user va s := by
  have hbank : ((bankNibble s va).getLsbD 3 && s.cfg.tlbConfig != .none) = false := by
    rcases htlb with h | h <;> rw [h] <;> simp
  rw [locate_aligned h, hspm, hbank]
  rfl

/-- The one matching sub-bank, or the bank, decides by its right and cache configuration. -/
theorem locateMbmu_eq {va : Word} {s : State} {right : Bool} {cc : BitVec 2} (kind : AccessKind) (user : Bool)
    (h : ((∀ b ∈ s.scp.subBanks.toList, subBankMatches va b = false) ∧ right = (bankNibble s va).getLsbD 2
          ∧ cc = (bankNibble s va).extractLsb' 0 2)
        ∨ (∃ b, s.scp.subBanks.toList.filter (subBankMatches va) = [b] ∧ right = b.ar ∧ cc = b.cc)) :
    locateMbmu kind user va s
      = if user && !right then raiseScp (violationCode kind) s else locateBus kind va cc s := by
  rcases h with ⟨hnone, rfl, rfl⟩ | ⟨b, hone, rfl, rfl⟩
  · have hfilter : s.scp.subBanks.toList.filter (subBankMatches va) = [] :=
      List.filter_eq_nil_iff.mpr fun b hb => by simp [hnone b hb]
    rw [locateMbmu, hfilter]
  · rw [locateMbmu, hone]

theorem raiseScp_violation {α : Type} (kind : AccessKind) (s : State) : (raiseScp (violationCode kind) s : Acc α)
    = .raise 0x20 { s with scp := { s.scp with
        pendingCode := if kind = .fetch then 0b0000 else 0b0100, pending := true } } := by
  rw [violationCode_eq]
  rfl

/-- Settles O43: alignment first, then the right of the sub-bank or bank, then what the platform answers. -/
theorem untranslatedAccess : Obligations.UntranslatedAccess := by
  unfold Obligations.UntranslatedAccess
  intro kind user size va s
  refine ⟨bankNibble_toNat s va, subBankMatches_iff va, fun hk hm => locate_misaligned hk hm,
    fun ha hspm htlb right cc hright => ?_⟩
  rw [locate_untranslated ha hspm htlb, locateMbmu_eq kind user hright]
  refine ⟨fun hu hr => ?_, fun hallowed => ?_⟩
  · rw [if_pos (by rw [hu, hr]; rfl)]
    exact raiseScp_violation kind s
  · rw [if_neg (by rcases hallowed with h | h <;> rw [h] <;> simp)]
    exact locateBus_cases kind va cc s

/-! ### With translation -/

theorem tlbSelect_toNat (cfg : Params) (kind : AccessKind) : (tlbSelect cfg kind).toNat
    = if kind ≠ .fetch ∧ (cfg.tlbConfig = .separated64 ∨ cfg.tlbConfig = .separated128) then 1 else 0 := by
  unfold tlbSelect
  cases cfg.tlbConfig <;> cases kind <;> decide

theorem tlbSet_toNat (cfg : Params) (va : Word) :
    (tlbSet cfg va).toNat = va.toNat / 4096 % (if cfg.tlbConfig = .separated64 then 16 else 32) := by
  have five : (va.extractLsb' 12 5).toNat = va.toNat / 4096 % 32 := toNat_extract va 12 5
  have four : ((va.extractLsb' 12 4).setWidth 5).toNat = va.toNat / 4096 % 16 := by
    rw [BitVec.toNat_setWidth_of_le (by decide)]
    exact toNat_extract va 12 4
  unfold tlbSet
  cases cfg.tlbConfig
  case separated64 => exact four
  all_goals exact five

theorem tlbSlot_toNat (sel : BitVec 1) (way : BitVec 2) (index : BitVec 5) :
    (tlbSlot sel way index).toNat = sel.toNat * 128 + way.toNat * 32 + index.toNat := by
  rw [tlbSlot, toNat_append, toNat_append]
  omega

/-- A slot is one of the four ways of an array and a set. -/
theorem mem_ways_iff (sel : BitVec 1) (index : BitVec 5) (slot : BitVec 8) :
    slot ∈ [0#2, 1#2, 2#2, 3#2].map (fun way => tlbSlot sel way index)
      ↔ slot.toNat / 128 = sel.toNat ∧ slot.toNat % 32 = index.toNat := by
  have hindex := index.isLt
  rw [List.mem_map]
  constructor
  · rintro ⟨way, -, rfl⟩
    have := way.isLt
    rw [tlbSlot_toNat]
    omega
  · rintro ⟨hsel, hset⟩
    have hslot := slot.isLt
    have hlt : slot.toNat / 32 % 4 < 4 := Nat.mod_lt _ (by decide)
    refine ⟨BitVec.ofNat 2 (slot.toNat / 32 % 4), ?_, BitVec.eq_of_toNat_eq ?_⟩
    · generalize slot.toNat / 32 % 4 = k at hlt
      interval_cases k <;> decide
    · rw [tlbSlot_toNat, BitVec.toNat_ofNat]
      omega

theorem tlbMatches_iff (pid : BitVec 8) (va : Word) (e : TlbEntry) : tlbMatches pid va e = true ↔
    e.vword.getLsbD 0 = true ∧ e.vword.toNat / 2 ^ 17 = va.toNat / 2 ^ 17
      ∧ (e.vword.getLsbD 7 = true ∨ e.vword.toNat / 256 % 256 = pid.toNat) := by
  have htag : e.vword.extractLsb' 17 15 = va.extractLsb' 17 15 ↔ e.vword.toNat / 2 ^ 17 = va.toNat / 2 ^ 17 := by
    rw [← BitVec.toNat_inj, toNat_extract, toNat_extract]
    have := e.vword.isLt
    have := va.isLt
    omega
  have hpid : e.vword.extractLsb' 8 8 = pid ↔ e.vword.toNat / 256 % 256 = pid.toNat := extract_eq_iff _ 8 pid
  simp only [tlbMatches, Bool.and_eq_true, Bool.or_eq_true, beq_iff_eq, htag, hpid, and_assoc]

theorem mem_tlbHits_iff (s : State) (kind : AccessKind) (va : Word) (slot : BitVec 8) : slot ∈ tlbHits s kind va ↔
    slot.toNat / 128 = (if kind ≠ .fetch ∧ (s.cfg.tlbConfig = .separated64 ∨ s.cfg.tlbConfig = .separated128)
        then 1 else 0)
      ∧ slot.toNat % 32 = va.toNat / 4096 % (if s.cfg.tlbConfig = .separated64 then 16 else 32)
      ∧ (readTlb s slot).vword.getLsbD 0 = true
      ∧ (readTlb s slot).vword.toNat / 2 ^ 17 = va.toNat / 2 ^ 17
      ∧ ((readTlb s slot).vword.getLsbD 7 = true
        ∨ (readTlb s slot).vword.toNat / 256 % 256 = s.scp.pid.toNat) := by
  rw [tlbHits, List.mem_filter, mem_ways_iff, tlbMatches_iff, tlbSelect_toNat, tlbSet_toNat, and_assoc]

theorem locate_translated {kind : AccessKind} {user : Bool} {size : AccessSize} {va : Word} {s : State}
    (h : kind = .fetch ∨ va.toNat % sizeBytes size = 0) (hspm : spmHits s va = [])
    (hbank : (bankNibble s va).getLsbD 3 = true) (htlb : s.cfg.tlbConfig ≠ .none) :
    locate kind user size va s = locateTlb kind user va s := by
  rw [locate_aligned h, hspm, hbank]
  exact if_pos (by simpa using htlb)

/-- What a TLB condition latches and records. -/
theorem raiseTlb_eq {α : Type} (kind : AccessKind) (code : BitVec 4) (va : Word) (s : State) :
    (raiseTlb kind code va s : Acc α) = .raise 0x20 { s with scp := { s.scp with
      itlbMiss := if kind = .fetch then va else s.scp.itlbMiss
      dtlbMiss := if kind = .fetch then s.scp.dtlbMiss else va
      pendingCode := code, pending := true } } := by
  cases kind <;> rfl

theorem touchTlb_eq (kind : AccessKind) (slot : BitVec 8) (s : State) : touchTlb kind slot s = writeTlb s slot
    { readTlb s slot with vword := (readTlb s slot).vword ||| (if kind = .write then 0x22 else 0x02) } := by
  cases kind <;> rfl

/-- A matching entry: read-only first, then the right, then the physical address. -/
theorem locateTlb_hit {kind : AccessKind} {va : Word} {s : State} {slot : BitVec 8} (user : Bool)
    (h : tlbHits s kind va = [slot]) : locateTlb kind user va s
      = if kind = .write ∧ (readTlb s slot).vword.getLsbD 6 = false then raiseTlb kind 0b0110 va s
        else if user && !(readTlb s slot).vword.getLsbD 2 then raiseTlb kind (violationCode kind) va s
        else locateBus kind ((readTlb s slot).ppn ++ va.extractLsb' 0 12) ((readTlb s slot).vword.extractLsb' 3 2)
          (touchTlb kind slot s) := by
  rw [locateTlb, h]

/-- Settles O44: a miss, then for the one matching entry the checks of `locateTlb` in their order. -/
theorem translatedAccess : Obligations.TranslatedAccess := by
  unfold Obligations.TranslatedAccess
  intro kind user size va s
  refine ⟨mem_tlbHits_iff s kind va, fun ha hspm hbank htlb => ?_⟩
  rw [locate_translated ha hspm hbank htlb]
  refine ⟨fun hmiss => ?_, fun slot hhit => ?_⟩
  · have hcode : missCode kind = if kind = .fetch then 0b0001 else 0b0101 := by cases kind <;> rfl
    rw [locateTlb, hmiss, ← hcode]
    exact raiseTlb_eq kind (missCode kind) va s
  · have writable (hok : kind ≠ .write ∨ (readTlb s slot).vword.getLsbD 6 = true) :
        ¬(kind = .write ∧ (readTlb s slot).vword.getLsbD 6 = false) := by
      rintro ⟨hk, hro⟩
      rw [hk, hro] at hok
      exact hok.elim (fun h => h rfl) (by decide)
    refine ⟨fun hk hro => ?_, fun hok => ⟨fun hu hr => ?_, fun hallowed pa hpa => ?_⟩⟩
    · rw [locateTlb_hit user hhit, if_pos ⟨hk, hro⟩]
      exact raiseTlb_eq kind _ va s
    · rw [locateTlb_hit user hhit, if_neg (writable hok), if_pos (by rw [hu, hr]; rfl), ← violationCode_eq]
      exact raiseTlb_eq kind _ va s
    · have hpage : (readTlb s slot).ppn ++ va.extractLsb' 0 12 = pa := by
        apply BitVec.eq_of_toNat_eq
        rw [hpa, toNat_append, toNat_extract]
        omega
      have hbus : locateTlb kind user va s = locateBus kind pa ((readTlb s slot).vword.extractLsb' 3 2)
          (touchTlb kind slot s) := by
        rw [locateTlb_hit user hhit, if_neg (writable hok), if_neg (by rcases hallowed with h | h <;> rw [h] <;> simp),
          hpage]
      rw [hbus, touchTlb_eq]
      obtain ⟨hram, hdevice, hopen, hnone⟩ := locateBus_cases kind pa ((readTlb s slot).vword.extractLsb' 3 2)
        (writeTlb s slot { readTlb s slot with
          vword := (readTlb s slot).vword ||| (if kind = .write then 0x22 else 0x02) })
      exact ⟨hram, hdevice, hopen, fun h => ⟨_, hnone h, rfl⟩⟩

/-! ### Scratch-pad memory -/

/-- The regions of the instruction side that an address lies in. -/
theorem mem_spmHits_ispm (s : State) (va : Word) (n : BitVec 2) (h : SpmHit) :
    (h ∈ spmHits s va ∧ h.space = .ispm ∧ h.bank = n) ↔
      h = { space := .ispm, bank := n, regs := spmBankAt false s n, config := s.scp.spm.iConfig
            sizeCode := s.cfg.ispmBankSize }
        ∧ s.scp.spm.iEnable = 1 ∧ (spmBankAt false s n).enable = 1 ∧ s.cfg.ispmPresent.getLsbD n.toNat = true
        ∧ (s.scp.spm.iConfig ≠ 0 ∨ n = 0) ∧ (spmBankAt false s n).start.toNat ≤ va.toNat
        ∧ va.toNat ≤ (spmBankAt false s n).last.toNat := by
  rw [spmHits, List.mem_append, mem_spmHitsIn, mem_spmHitsIn]
  constructor
  · rintro ⟨⟨he, hc⟩ | ⟨he, -⟩, hspace, rfl⟩
    · have hregs : h.regs = spmBankAt false s h.bank := congrArg SpmHit.regs he
      rw [hregs] at hc
      exact ⟨he, hc⟩
    · rw [he] at hspace
      cases hspace
  · rintro ⟨rfl, hc⟩
    exact ⟨.inl ⟨rfl, hc⟩, rfl, rfl⟩

/-- The regions of the data side that an address lies in. -/
theorem mem_spmHits_dspm (s : State) (va : Word) (n : BitVec 2) (h : SpmHit) :
    (h ∈ spmHits s va ∧ h.space = .dspm ∧ h.bank = n) ↔
      h = { space := .dspm, bank := n, regs := spmBankAt true s n, config := s.scp.spm.dConfig
            sizeCode := s.cfg.dspmBankSize }
        ∧ s.scp.spm.dEnable = 1 ∧ (spmBankAt true s n).enable = 1 ∧ s.cfg.dspmPresent.getLsbD n.toNat = true
        ∧ (s.scp.spm.dConfig ≠ 0 ∨ n = 0) ∧ (spmBankAt true s n).start.toNat ≤ va.toNat
        ∧ va.toNat ≤ (spmBankAt true s n).last.toNat := by
  rw [spmHits, List.mem_append, mem_spmHitsIn, mem_spmHitsIn]
  constructor
  · rintro ⟨⟨he, -⟩ | ⟨he, hc⟩, hspace, rfl⟩
    · rw [he] at hspace
      cases hspace
    · have hregs : h.regs = spmBankAt true s h.bank := congrArg SpmHit.regs he
      rw [hregs] at hc
      exact ⟨he, hc⟩
  · rintro ⟨rfl, hc⟩
    exact ⟨.inr ⟨rfl, hc⟩, rfl, rfl⟩

/-- A region an address lies in is of a scratch-pad, and holds the address. -/
theorem spmHit_facts {s : State} {va : Word} {h : SpmHit} (hh : h ∈ spmHits s va) :
    h.space ≠ .bus ∧ h.regs.start.toNat ≤ va.toNat ∧ va.toNat ≤ h.regs.last.toNat := by
  rw [spmHits, List.mem_append, mem_spmHitsIn, mem_spmHitsIn] at hh
  rcases hh with ⟨he, -, -, -, -, hstart, hlast⟩ | ⟨he, -, -, -, -, hstart, hlast⟩
  · exact ⟨by rw [he]; exact nofun, hstart, hlast⟩
  · exact ⟨by rw [he]; exact nofun, hstart, hlast⟩

theorem toNat_sub_of_le {a b : Word} (h : a.toNat ≤ b.toNat) : (b - a).toNat = b.toNat - a.toNat :=
  BitVec.toNat_sub_of_le (BitVec.le_def.mpr h)

/-- An access in exactly one region that its bank holds. -/
theorem locate_spm {kind : AccessKind} {user : Bool} {size : AccessSize} {va : Word} {s : State} {h : SpmHit}
    (ha : kind = .fetch ∨ va.toNat % sizeBytes size = 0) (hone : spmHits s va = [h])
    (hconfig : h.config = 0 ∨ h.config = 2)
    (hsize : h.regs.last.toNat - h.regs.start.toNat < 1024 * 2 ^ h.sizeCode.toNat) :
    locate kind user size va s = if user && h.regs.privilege != 1 then raiseSpmViolation kind s
      else .ok (.storage (spmLoc h va) 0) s := by
  obtain ⟨-, hstart, hlast⟩ := spmHit_facts (s := s) (va := va) (h := h) (by rw [hone]; exact List.mem_singleton_self h)
  have hfits : ¬spmBankBytes h.sizeCode < (h.regs.last - h.regs.start).toNat + 1 := by
    rw [spmBankBytes, pow_add, toNat_sub_of_le (hstart.trans hlast)]
    omega
  rw [locate_aligned ha, hone]
  show locateSpm kind user va h [] s = _
  rw [locateSpm, if_neg (by rcases hconfig with h | h <;> simp [h]), if_neg (by simp), if_neg hfits]

theorem raiseSpmViolation_eq {α : Type} (kind : AccessKind) (s : State) :
    (raiseSpmViolation kind s : Acc α) = .raise 0x20 { s with scp := { s.scp with
        spm := { s.scp.spm with excStatus := if kind = .fetch then 0b0010 else 0b0001 }
        pendingCode := if kind = .fetch then 0b0000 else 0b0100, pending := true } } := by
  cases kind <;> rfl

/-- Settles O45: the regions of the two sides, and the access in the one region an address lies in. -/
theorem scratchPadAccess : Obligations.ScratchPadAccess := by
  unfold Obligations.ScratchPadAccess
  intro kind user size va s
  refine ⟨fun n h => ⟨mem_spmHits_ispm s va n h, mem_spmHits_dspm s va n h⟩, fun h hh => (spmHit_facts hh).1,
    fun h ha hone hconfig hsize => ?_⟩
  obtain ⟨-, hstart, -⟩ := spmHit_facts (s := s) (va := va) (h := h) (by rw [hone]; exact List.mem_singleton_self h)
  rw [locate_spm ha hone hconfig hsize, ← toNat_sub_of_le hstart]
  refine ⟨fun hallowed => ?_, fun hu hp => ?_⟩
  · rw [if_neg (by rcases hallowed with h | h <;> rw [h] <;> simp)]
    rfl
  · rw [if_pos (by rw [hu, Bool.true_and, bne_iff_ne]; exact hp)]
    exact raiseSpmViolation_eq kind s

/-! ### Stale instructions -/

/-- MVTC to a system register in supervisor mode. -/
theorem exec_mvtc_system {s : State} (reg : BitVec 4) (h : isUser s = false) :
    exec (.mvtc 0 reg) s = .next (retire (scprWrite reg (readReg s 0) s)) := by
  have hs : ¬isUser s = true := by simp [h]
  exact if_neg hs

/-- A command with bit 1 clear acts on the stale halfwords alone. -/
theorem scprWrite_invalidation {v : Word} (s : State) (h : v.getLsbD 1 = false) :
    scprWrite 11 v s = { s with stale := s.stale.map (staleAfter s.cfg v) } := by
  show cacheCommand v s = _
  rw [cacheCommand, h]
  rfl

theorem and_lineMask_toNat (a : Word) : (a &&& 0xFFFFFFF0).toNat = a.toNat / 16 * 16 := by
  have h : a &&& 0xFFFFFFF0#32 = (a >>> 4) <<< 4 := by
    apply BitVec.eq_of_getLsbD_eq
    intro i hi
    interval_cases i <;> simp
  rw [show (0xFFFFFFF0 : Word) = 0xFFFFFFF0#32 from rfl, h, BitVec.toNat_shiftLeft, BitVec.toNat_ushiftRight,
    Nat.shiftRight_eq_div_pow, Nat.shiftLeft_eq]
  have := a.isLt
  omega

/-- The two commands name the line of `a`, the first its copy-back and the second its invalidation. -/
theorem lineCommand_bits (a : Word) : ((a &&& 0xFFFFFFF0 ||| 5).getLsbD 0 = true
      ∧ (a &&& 0xFFFFFFF0 ||| 5).getLsbD 1 = false ∧ (a &&& 0xFFFFFFF0 ||| 5).getLsbD 2 = true
      ∧ (a &&& 0xFFFFFFF0 ||| 5).getLsbD 3 = false)
    ∧ ((a &&& 0xFFFFFFF0).getLsbD 0 = false ∧ (a &&& 0xFFFFFFF0).getLsbD 1 = false
      ∧ (a &&& 0xFFFFFFF0).getLsbD 3 = false) := by
  simp

theorem lineCommand_address (a : Word) : (a &&& 0xFFFFFFF0 ||| 5) &&& 0xFFFFFFF0 = a &&& 0xFFFFFFF0
    ∧ (a &&& 0xFFFFFFF0) &&& 0xFFFFFFF0 = a &&& 0xFFFFFFF0 := by
  refine ⟨?_, by rw [BitVec.and_assoc, BitVec.and_self]⟩
  apply BitVec.eq_of_getLsbD_eq
  intro i hi
  interval_cases i <;> simp

/-- A stale halfword's place and old value outlast every command. -/
theorem staleAfter_keeps (cfg : Params) (v : Word) (e : Stale) :
    (staleAfter cfg v e).loc = e.loc ∧ (staleAfter cfg v e).old = e.old
      ∧ (staleAfter cfg v e).uncached = e.uncached := by
  unfold staleAfter
  split
  · split <;> exact ⟨rfl, rfl, rfl⟩
  · split <;> exact ⟨rfl, rfl, rfl⟩

/-- Copy-back of its line leaves no way of a stale halfword to write back. -/
theorem staleAfter_copyBack {cfg : Params} {v : Word} {e : Stale} (h0 : v.getLsbD 0 = true) (h2 : v.getLsbD 2 = true)
    (hw : commandWays cfg v e.loc = BitVec.allOnes 8) : (staleAfter cfg v e).writeBack = 0 := by
  simp only [staleAfter, h0, h2, if_true, hw, BitVec.not_allOnes]
  exact BitVec.and_zero

/-- Then invalidation of its line leaves no way to invalidate. -/
theorem staleAfter_invalidate {cfg : Params} {v : Word} {e : Stale} (h0 : v.getLsbD 0 = false)
    (he : e.writeBack = 0) (hw : commandWays cfg v e.loc = BitVec.allOnes 8) :
    (staleAfter cfg v e).writeBack = 0 ∧ (staleAfter cfg v e).invalidate = 0 := by
  simp only [staleAfter, h0, Bool.false_eq_true, if_false, he, if_true, hw, BitVec.not_allOnes]
  exact ⟨trivial, BitVec.and_zero⟩

theorem commandWays_line {cfg : Params} {v a : Word} {l : Loc} (h3 : v.getLsbD 3 = false)
    (hv : v &&& 0xFFFFFFF0 = a &&& 0xFFFFFFF0)
    (hl : l.space = .bus ∧ l.addr / cfg.cacheLine = (a.toNat / 16 * 16) / cfg.cacheLine) :
    commandWays cfg v l = BitVec.allOnes 8 := by
  have haddr : (v &&& 0xFFFFFFF0).toNat = a.toNat / 16 * 16 := by rw [hv, and_lineMask_toNat]
  rw [commandWays, h3, if_neg (by decide), haddr, if_pos hl]

/-- After both commands a stale halfword of the line has nothing left to be done. -/
theorem stale_maintained {cfg : Params} {a : Word} {e : Stale}
    (hl : e.loc.space = .bus ∧ e.loc.addr / cfg.cacheLine = (a.toNat / 16 * 16) / cfg.cacheLine) :
    (staleAfter cfg (a &&& 0xFFFFFFF0) (staleAfter cfg (a &&& 0xFFFFFFF0 ||| 5) e)).writeBack = 0
      ∧ (staleAfter cfg (a &&& 0xFFFFFFF0) (staleAfter cfg (a &&& 0xFFFFFFF0 ||| 5) e)).invalidate = 0 := by
  obtain ⟨⟨hcopy, -, hback, hway⟩, hinv, -, hway'⟩ := lineCommand_bits a
  obtain ⟨haddr, haddr'⟩ := lineCommand_address a
  obtain ⟨hloc, -, -⟩ := staleAfter_keeps cfg (a &&& 0xFFFFFFF0 ||| 5) e
  refine staleAfter_invalidate hinv (staleAfter_copyBack hcopy hback (commandWays_line hway haddr hl)) ?_
  rw [hloc]
  exact commandWays_line hway' haddr' hl

/-- What SYNC leaves stale has still something to be done. -/
theorem mem_syncStale {s : State} {e : Stale} (h : e ∈ (syncStale s).stale) : e.synced = true
    ∧ ∃ f ∈ s.stale, e = { f with synced := true } ∧ ¬(f.writeBack = 0 ∧ f.invalidate = 0) := by
  rw [syncStale_stale, List.mem_map] at h
  obtain ⟨f, hf, rfl⟩ := h
  rw [List.mem_filter] at hf
  refine ⟨rfl, f, hf.1, rfl, ?_⟩
  rw [not_and_or]
  simpa using hf.2

theorem mem_fetchChoices {s : State} {l : Loc} {cc : BitVec 2} {w : Half} : w ∈ fetchChoices s l cc ↔
    w = halfAt s l ∨ ∃ e ∈ s.stale, e.loc = l ∧ e.settled cc = false ∧ w = e.old := by
  rw [fetchChoices, List.mem_cons, List.mem_map]
  refine or_congr_right ⟨?_, ?_⟩
  · rintro ⟨e, he, rfl⟩
    rw [List.mem_filter] at he
    obtain ⟨hmem, hopen⟩ := he
    simp only [Bool.and_eq_true, decide_eq_true_eq, Bool.not_eq_true'] at hopen
    exact ⟨e, hmem, hopen.1, hopen.2, rfl⟩
  · rintro ⟨e, hmem, hloc, hopen, rfl⟩
    exact ⟨e, List.mem_filter.mpr ⟨hmem, by simp [hloc, hopen]⟩, rfl⟩

/-- A fetch gets one of its choices. -/
theorem fetchFrom_mem (l : Loc) (cc : BitVec 2) (s : State) : (fetchFrom l cc s).1 ∈ fetchChoices s l cc := by
  have hpos : 0 < (fetchChoices s l cc).length := by simp [fetchChoices]
  unfold fetchFrom
  split
  · rename_i w h
    rw [h]
    exact List.mem_singleton_self w
  · rw [List.getD_eq_getElem _ _ (Nat.mod_lt _ hpos)]
    exact List.getElem_mem _

/-- Where every stale halfword of a place is settled, a fetch gets what is in memory. -/
theorem fetchFrom_settled {l : Loc} {cc : BitVec 2} {s : State}
    (h : ∀ e ∈ s.stale, e.loc = l → e.settled cc = true) : fetchFrom l cc s = (halfAt s l, s) := by
  have hnone : s.stale.filter (fun e => e.loc = l && !e.settled cc) = [] := by
    rw [List.filter_eq_nil_iff]
    intro e he
    by_cases hl : e.loc = l <;> simp [hl]
    exact h e he hl
  have hone : fetchChoices s l cc = [halfAt s l] := by rw [fetchChoices, hnone]; rfl
  rw [fetchFrom, hone]

/-- Settles O46: the three instructions act on the stale halfwords alone, and a fetch gets a choice. -/
theorem maintainedCodeIsFetched : Obligations.MaintainedCodeIsFetched := by
  unfold Obligations.MaintainedCodeIsFetched
  refine ⟨fun s a hs hv => ?_, fun s l cc => ⟨mem_fetchChoices.mp (fetchFrom_mem l cc s), fun h => ?_⟩⟩
  · obtain ⟨⟨-, hcommand, -, -⟩, -, hcommand', -⟩ := lineCommand_bits a
    have first := exec_mvtc_system 11 hs
    rw [hv, scprWrite_invalidation s hcommand] at first
    have second := exec_mvtc_system (s := writeReg (retire { s with
      stale := s.stale.map (staleAfter s.cfg (a &&& 0xFFFFFFF0 ||| 5)) }) 0 (a &&& 0xFFFFFFF0)) 11 hs
    rw [readReg_writeReg_same, scprWrite_invalidation _ hcommand'] at second
    refine ⟨_, _, _, first, second, rfl, fun e he => ?_⟩
    obtain ⟨hsynced, f, hf, rfl, hleft⟩ := mem_syncStale he
    have hf' : f ∈ (s.stale.map (staleAfter s.cfg (a &&& 0xFFFFFFF0 ||| 5))).map
      (staleAfter s.cfg (a &&& 0xFFFFFFF0)) := hf
    rw [List.map_map, List.mem_map] at hf'
    obtain ⟨e', hmem, rfl⟩ := hf'
    obtain ⟨hloc, hold, hun⟩ := staleAfter_keeps s.cfg (a &&& 0xFFFFFFF0 ||| 5) e'
    obtain ⟨hloc', hold', hun'⟩ := staleAfter_keeps s.cfg (a &&& 0xFFFFFFF0)
      (staleAfter s.cfg (a &&& 0xFFFFFFF0 ||| 5) e')
    refine ⟨hsynced, ⟨e', hmem, hloc'.trans hloc, hold'.trans hold, hun'.trans hun⟩, fun hline => hleft ?_⟩
    have hline' : e'.loc.space = .bus ∧ e'.loc.addr / s.cfg.cacheLine = (a.toNat / 16 * 16) / s.cfg.cacheLine := by
      rw [← hloc, ← hloc']
      exact hline
    exact stale_maintained hline'
  · refine fetchFrom_settled fun e he hl => ?_
    obtain ⟨hsynced, hun, hcc⟩ := h e he hl
    simp only [Stale.settled, cacheOff, hsynced, hun, hcc, Bool.not_false, Bool.and_self]

end Sys2Proof.Machine

/-! SUPPORT. The system coprocessor's registers as written and as read, the registers of its general access
point, and the instructions of the attached coprocessors. -/

namespace Sys2Proof.Machine

open Sys2Proof.Safety

/-! ### The general access point -/

/-- The index of a register of the general access point (10_state.md R63). -/
def gapIndexOf : GapReg → Word
  | .backupIr => 0x000
  | .backupEr => 0x001
  | .backupPc => 0x002
  | .ead => 0x010
  | .itlbMiss => 0x300
  | .dtlbMiss => 0x301
  | .pid => 0x302
  | .icacheLock => 0x500
  | .dcacheLock => 0x501
  | .ibusError => 0x600
  | .dbusError => 0x601
  | .spmGlobal => 0x700
  | .iControl n => 0x701 + 16 * n.setWidth 32
  | .iStart n => 0x702 + 16 * n.setWidth 32
  | .iEnd n => 0x703 + 16 * n.setWidth 32
  | .dControl n => 0x704 + 16 * n.setWidth 32
  | .dStart n => 0x705 + 16 * n.setWidth 32
  | .dEnd n => 0x706 + 16 * n.setWidth 32

theorem gapReg_gapIndexOf (r : GapReg) : gapReg (gapIndexOf r) = some r := by
  cases r with
  | iControl n | iStart n | iEnd n | dControl n | dStart n | dEnd n => revert n; decide
  | _ => rfl

/-- The index of a local register, from its fields. -/
theorem local_index {index : Word} (h : index.extractLsb' 6 26 = 0x1C) : index
    = 0x700 + 16 * (index.extractLsb' 4 2).setWidth 32 + (index.extractLsb' 0 4).setWidth 32 := by
  have hhigh := congrArg BitVec.toNat h
  have hlt := index.isLt
  apply BitVec.eq_of_toNat_eq
  simp only [toNat_extract, BitVec.toNat_add, BitVec.toNat_mul, BitVec.toNat_setWidth, BitVec.ofNat_eq_ofNat,
    BitVec.toNat_ofNat] at hhigh ⊢
  omega

theorem gapIndexOf_of_gapLocalReg {n : BitVec 2} {k : BitVec 4} {r : GapReg} (h : gapLocalReg n k = some r) :
    gapIndexOf r = 0x700 + 16 * n.setWidth 32 + k.setWidth 32 := by
  have all : ∀ (n : BitVec 2) (k : BitVec 4), (gapLocalReg n k).all
      (fun r => gapIndexOf r = 0x700 + 16 * n.setWidth 32 + k.setWidth 32) = true := by decide
  simpa [h] using all n k

theorem some_of_ite {c : Prop} [Decidable c] {a r : GapReg} {o : Option GapReg}
    (h : (if c then some a else o) = some r) : (c ∧ a = r) ∨ o = some r := by
  by_cases hc : c
  · rw [if_pos hc] at h
    exact .inl ⟨hc, Option.some.inj h⟩
  · rw [if_neg hc] at h
    exact .inr h

theorem gapIndexOf_of_gapReg {index : Word} {r : GapReg} (h : gapReg index = some r) : index = gapIndexOf r := by
  unfold gapReg at h
  iterate 12
    obtain ⟨he, rfl⟩ | h := some_of_ite h
    · exact he
  by_cases hl : index.extractLsb' 6 26 = 0x1C
  · rw [if_pos hl] at h
    exact (local_index hl).trans (gapIndexOf_of_gapLocalReg h).symm
  · rw [if_neg hl] at h
    cases h

/-- The bits of a register of the general access point that a write sets (10_state.md R63 to R72). -/
def gapMask : GapReg → Word
  | .pid | .iControl _ | .dControl _ => 0xFF
  | .spmGlobal => 0x000FF0FF
  | .iStart _ | .iEnd _ | .dStart _ | .dEnd _ => 0xFFFFFFFF
  | _ => 0

/-- What a write does to each register of the general access point (44_coprocessor.md R425). -/
def writeGapReg (v : Word) (s : State) : GapReg → State
  | .pid => { s with scp := { s.scp with pid := v.extractLsb' 0 8 } }
  | .spmGlobal => writeSpmGlobal v s
  | .iControl n => changeISpm n (withSpmControl v) s
  | .iStart n => changeISpm n (fun b => { b with start := v }) s
  | .iEnd n => changeISpm n (fun b => { b with last := v }) s
  | .dControl n => changeDSpm n (withSpmControl v) s
  | .dStart n => changeDSpm n (fun b => { b with start := v }) s
  | .dEnd n => changeDSpm n (fun b => { b with last := v }) s
  | _ => s

theorem gapWrite_eq (index v : Word) (s : State) :
    gapWrite index v s = ((gapReg index).map (writeGapReg v s)).getD s := by
  unfold gapWrite
  cases gapReg index with
  | none => rfl
  | some r => cases r <;> rfl

theorem gapWrite_gapIndexOf (r : GapReg) (v : Word) (s : State) : gapWrite (gapIndexOf r) v s = writeGapReg v s r := by
  rw [gapWrite_eq, gapReg_gapIndexOf]
  rfl

theorem gapWrite_readOnly {index v : Word} {s : State} (h : ∀ r, gapReg index = some r → gapMask r = 0) :
    gapWrite index v s = s := by
  rw [gapWrite_eq]
  cases hr : gapReg index with
  | none => rfl
  | some r =>
    have hm := h r hr
    cases r with
    | pid | iControl n | dControl n | spmGlobal | iStart n | iEnd n | dStart n | dEnd n => cases hm
    | _ => rfl

/-- A write of a register of the general access point leaves its other fields (44_coprocessor.md R425). -/
theorem writesGap_gapWrite (index v : Word) (s : State) : WritesGap s (gapWrite index v s) index v := by
  refine ⟨?_, ?_, fun data n => ⟨?_, ?_, ?_⟩, fun hpid hglobal hlocal => ?_⟩
  · rintro rfl
    rfl
  · rintro rfl
    rfl
  · intro h
    cases data with
    | false =>
      obtain rfl : index = gapIndexOf (.iControl n) := h
      rw [gapWrite_gapIndexOf]
      exact ⟨rfl, spmBankAt_changeISpm n _ s⟩
    | true =>
      obtain rfl : index = gapIndexOf (.dControl n) := h
      rw [gapWrite_gapIndexOf]
      exact ⟨rfl, spmBankAt_changeDSpm n _ s⟩
  · intro h
    cases data with
    | false =>
      obtain rfl : index = gapIndexOf (.iStart n) := h.trans (add_right_comm 0x701 _ 1)
      rw [gapWrite_gapIndexOf]
      exact ⟨rfl, spmBankAt_changeISpm n _ s⟩
    | true =>
      obtain rfl : index = gapIndexOf (.dStart n) := h.trans (add_right_comm 0x704 _ 1)
      rw [gapWrite_gapIndexOf]
      exact ⟨rfl, spmBankAt_changeDSpm n _ s⟩
  · intro h
    cases data with
    | false =>
      obtain rfl : index = gapIndexOf (.iEnd n) := h.trans (add_right_comm 0x701 _ 2)
      rw [gapWrite_gapIndexOf]
      exact ⟨rfl, spmBankAt_changeISpm n _ s⟩
    | true =>
      obtain rfl : index = gapIndexOf (.dEnd n) := h.trans (add_right_comm 0x704 _ 2)
      rw [gapWrite_gapIndexOf]
      exact ⟨rfl, spmBankAt_changeDSpm n _ s⟩
  · have readOnly : ∀ r, gapReg index = some r → gapMask r = 0 := by
      intro r hr
      have hi := gapIndexOf_of_gapReg hr
      cases r with
      | pid => exact absurd hi hpid
      | spmGlobal => exact absurd hi hglobal
      | iControl n => exact absurd hi (hlocal n _ (by decide))
      | iStart n => exact absurd hi (hlocal n _ (by decide))
      | iEnd n => exact absurd hi (hlocal n _ (by decide))
      | dControl n => exact absurd hi (hlocal n _ (by decide))
      | dStart n => exact absurd hi (hlocal n _ (by decide))
      | dEnd n => exact absurd hi (hlocal n _ (by decide))
      | _ => rfl
    rw [gapWrite_readOnly readOnly]

/-- What a read of each register of the general access point gives, but for EAD,
which is unspecified (44_coprocessor.md R426). -/
def gapValue (s : State) : GapReg → Word
  | .backupIr => zext s.scp.backupIr
  | .backupEr => s.scp.backupEr
  | .backupPc => s.scp.backupPc
  | .ead => 0
  | .itlbMiss => s.scp.itlbMiss
  | .dtlbMiss => s.scp.dtlbMiss
  | .pid => zext s.scp.pid
  | .icacheLock => zext s.scp.icacheLock
  | .dcacheLock => zext s.scp.dcacheLock
  | .ibusError => s.scp.ibusError
  | .dbusError => s.scp.dbusError
  | .spmGlobal => spmGlobalWord s
  | .iControl n => spmControlWord s (spmBankAt false s n)
  | .iStart n => (spmBankAt false s n).start
  | .iEnd n => (spmBankAt false s n).last
  | .dControl n => spmControlWord s (spmBankAt true s n)
  | .dStart n => (spmBankAt true s n).start
  | .dEnd n => (spmBankAt true s n).last

theorem gapRead_gapIndexOf {r : GapReg} (s : State) (h : r ≠ .ead) :
    gapRead (gapIndexOf r) s = (gapValue s r, s) := by
  unfold gapRead
  rw [gapReg_gapIndexOf]
  cases r with
  | ead => exact absurd rfl h
  | _ => rfl

theorem spmControlWord_toNat (s : State) (b : SpmBank) : (spmControlWord s b).toNat
    = s.cfg.spmExternal.toNat * 2 ^ 8 + b.privilege.toNat * 2 ^ 4 + b.enable.toNat := by
  rw [spmControlWord, toNat_append, toNat_append, toNat_append]
  have h0 : (0#20).toNat = 0 := rfl
  omega

theorem spmGlobalWord_toNat (s : State) : (spmGlobalWord s).toNat = s.scp.spm.excStatus.toNat * 2 ^ 28
    + s.cfg.ispmBankSize.toNat * 2 ^ 20 + s.scp.spm.iConfig.toNat * 2 ^ 16 + s.scp.spm.iEnable.toNat * 2 ^ 12
    + s.cfg.dspmBankSize.toNat * 2 ^ 8 + s.scp.spm.dConfig.toNat * 2 ^ 4 + s.scp.spm.dEnable.toNat := by
  rw [spmGlobalWord, toNat_append, toNat_append, toNat_append, toNat_append, toNat_append, toNat_append,
    toNat_append]
  have h0 : (0#4).toNat = 0 := rfl
  omega

/-- A read through the general access point gives the register its index names (10_state.md R63 to R72). -/
theorem readsGap_gapRead (s : State) (index : Word) : ReadsGap s index (gapRead index s).1 := by
  have value {r : GapReg} {i : Word} (hr : r ≠ .ead) (h : i = gapIndexOf r) : (gapRead i s).1 = gapValue s r := by
    rw [h, gapRead_gapIndexOf s hr]
  refine ⟨?_, ?_, ?_, ?_, ?_, ?_, ?_, ?_, ?_, ?_, ?_, fun data n => ?_⟩
  · exact fun h => (congrArg BitVec.toNat (value (r := .backupIr) (by decide) h)).trans (zext_toNat _ (by decide))
  · exact value (r := .backupEr) (by decide)
  · exact value (r := .backupPc) (by decide)
  · exact value (r := .itlbMiss) (by decide)
  · exact value (r := .dtlbMiss) (by decide)
  · exact fun h => (congrArg BitVec.toNat (value (r := .pid) (by decide) h)).trans (zext_toNat _ (by decide))
  · exact fun h => (congrArg BitVec.toNat (value (r := .icacheLock) (by decide) h)).trans (zext_toNat _ (by decide))
  · exact fun h => (congrArg BitVec.toNat (value (r := .dcacheLock) (by decide) h)).trans (zext_toNat _ (by decide))
  · exact value (r := .ibusError) (by decide)
  · exact value (r := .dbusError) (by decide)
  · exact fun h => (congrArg BitVec.toNat (value (r := .spmGlobal) (by decide) h)).trans (spmGlobalWord_toNat s)
  · cases data with
    | false =>
      exact ⟨fun h => (congrArg BitVec.toNat (value (r := .iControl n) nofun h)).trans (spmControlWord_toNat s _),
        fun h => value (r := .iStart n) nofun (h.trans (add_right_comm 0x701 _ 1)),
        fun h => value (r := .iEnd n) nofun (h.trans (add_right_comm 0x701 _ 2))⟩
    | true =>
      exact ⟨fun h => (congrArg BitVec.toNat (value (r := .dControl n) nofun h)).trans (spmControlWord_toNat s _),
        fun h => value (r := .dStart n) nofun (h.trans (add_right_comm 0x704 _ 1)),
        fun h => value (r := .dEnd n) nofun (h.trans (add_right_comm 0x704 _ 2))⟩

/-! ### SCPR0 to SCPR15 -/

theorem selectedSlot_toNat (s : State) : (selectedSlot s).toNat
    = (if s.cfg.tlbConfig = .separated64 ∨ s.cfg.tlbConfig = .separated128
        then s.scp.tlbIndex.toNat / 256 * 128 else 0)
      + s.scp.tlbIndex.toNat / 2 % 4 * 32
      + s.scp.tlbIndex.toNat / 8 % (if s.cfg.tlbConfig = .separated64 then 16 else 32) := by
  have hlt := s.scp.tlbIndex.isLt
  unfold selectedSlot
  cases s.cfg.tlbConfig with
  | none | unified =>
    simp only [tlbSlot_toNat, toNat_extract]
    simp
  | separated128 =>
    simp only [tlbSlot_toNat, toNat_extract]
    simp
    omega
  | separated64 =>
    simp only [tlbSlot_toNat, toNat_extract, BitVec.toNat_setWidth]
    simp
    omega

/-- A write of SCPR6 sets the half of the selected entry that SCPR7 names (10_state.md R51, R77). -/
theorem scprWrite_tlb (v : Word) (s : State) : scprWrite 6 v s = writeTlb s (selectedSlot s)
    (if s.scp.tlbIndex.getLsbD 0 then { readTlb s (selectedSlot s) with ppn := v.extractLsb' 12 20 }
      else { readTlb s (selectedSlot s) with vword := v }) := by
  by_cases h : s.scp.tlbIndex.getLsbD 0 = true
  · rw [if_pos h]
    exact if_pos h
  · rw [if_neg h]
    exact if_neg h

/-- A cache command writes a lock register only where it reads the lock condition (20_memory.md R166). -/
theorem cacheCommand_locks (v : Word) (s : State) :
    (cacheCommand v s).scp = { s.scp with
        icacheLock := (cacheCommand v s).scp.icacheLock, dcacheLock := (cacheCommand v s).scp.dcacheLock }
      ∧ (v.extractLsb' 0 3 ≠ 0b010 → (cacheCommand v s).scp.icacheLock = s.scp.icacheLock)
      ∧ (v.extractLsb' 0 3 ≠ 0b011 → (cacheCommand v s).scp.dcacheLock = s.scp.dcacheLock)
      ∧ (v.getLsbD 1 = true → (cacheCommand v s).stale = s.stale) := by
  have low : v.extractLsb' 0 3 = BitVec.ofBool (v.getLsbD 2) ++ BitVec.ofBool (v.getLsbD 1)
      ++ BitVec.ofBool (v.getLsbD 0) := by
    apply BitVec.eq_of_getLsbD_eq
    intro i hi
    rw [BitVec.getLsbD_append, BitVec.getLsbD_append, BitVec.getLsbD_extractLsb']
    interval_cases i <;> simp
  unfold cacheCommand
  rw [low]
  cases v.getLsbD 1 with
  | false => exact ⟨rfl, fun _ => rfl, fun _ => rfl, nofun⟩
  | true =>
    cases v.getLsbD 2 with
    | true => exact ⟨rfl, fun _ => rfl, fun _ => rfl, fun _ => rfl⟩
    | false =>
      cases v.getLsbD 0 with
      | true => exact ⟨rfl, fun _ => rfl, fun h => absurd rfl h, fun _ => rfl⟩
      | false => exact ⟨rfl, fun h => absurd rfl h, fun _ => rfl, fun _ => rfl⟩

/-- MVTC to the system coprocessor writes the register named (10_state.md R47 to R62). -/
theorem writesScpr_scprWrite (reg : BitVec 4) (v : Word) (s : State) : WritesScpr s (scprWrite reg v s) reg v := by
  refine ⟨?_, ?_, ?_, ?_, ?_, ?_, ?_, ?_, ?_⟩
  · rintro rfl
    rfl
  · rintro rfl
    refine ⟨rfl, fun k => (subBankAt_writeSubBank s _ k _).trans ?_⟩
    split
    · next h =>
      rw [h]
      rfl
    · rfl
  · rintro rfl
    rw [scprWrite_tlb]
    refine ⟨rfl, selectedSlot_toNat s, fun slot => (readTlb_writeTlb s _ slot _).trans ?_⟩
    by_cases h : slot = selectedSlot s
    · rw [if_pos h.symm, if_pos h, h]
    · rw [if_neg (Ne.symm h), if_neg h]
  · rintro rfl
    rfl
  · rintro rfl
    refine ⟨rfl, fun k => (subBankAt_writeSubBank
      { s with scp := { s.scp with subBankIndex := v.extractLsb' 4 3 } } _ k _).trans ?_⟩
    split
    · next h =>
      rw [h]
      rfl
    · rfl
  · rintro rfl
    rfl
  · rintro rfl
    exact cacheCommand_locks v s
  · rintro rfl
    rfl
  · rintro rfl
    rfl

theorem statusWord_toNat (s : State) : (statusWord s).toNat = 0x90030000
    + (tlbConfigCode s.cfg.tlbConfig).toNat * 2 ^ 19 + s.cfg.cacheAbsent.toNat * 2 ^ 18
    + s.scp.pendingCode.toNat * 2 ^ 2 + s.scp.pending.toNat * 2 := by
  simp only [statusWord, toNat_append, BitVec.toNat_ofBool, BitVec.toNat_ofNat]
  omega

theorem scprRead_six (s : State) : (scprRead 6 s).1 = if s.scp.tlbIndex.getLsbD 0
    then (readTlb s (selectedSlot s)).ppn ++ 0#12 else (readTlb s (selectedSlot s)).vword := rfl

/-- MVFC of the system coprocessor reads the register named (10_state.md R47 to R60). -/
theorem readsScpr_scprRead (s : State) (reg : BitVec 4) : ReadsScpr s reg (scprRead reg s).1 := by
  refine ⟨?_, ?_, ?_, ?_, ?_, ?_, ?_, ?_, ?_⟩
  · rintro rfl
    rfl
  · rintro rfl
    exact toNat_append _ _
  · rintro rfl
    rw [scprRead_six, apply_ite BitVec.toNat, toNat_append, BitVec.toNat_ofNat, Nat.zero_mod, Nat.add_zero]
  · rintro rfl
    exact zext_toNat _ (by decide)
  · rintro rfl
    show (0#25 ++ s.scp.subBankIndex ++ BitVec.ofBool (selectedSubBank s).valid
      ++ BitVec.ofBool (selectedSubBank s).ar ++ (selectedSubBank s).cc : BitVec 32).toNat = _
    simp only [toNat_append, BitVec.toNat_ofBool, BitVec.toNat_ofNat]
    unfold selectedSubBank subBankAt
    omega
  · rintro rfl
    rfl
  · rintro rfl
    rfl
  · rintro rfl
    rfl
  · rintro rfl
    exact statusWord_toNat s

theorem exec_mvfc_system {s : State} (reg : BitVec 4) (h : isUser s = false) :
    exec (.mvfc 0 reg) s = .next (retire (writeReg (scprRead reg s).2 0 (scprRead reg s).1)) := by
  have hs : ¬isUser s = true := by simp [h]
  exact if_neg hs

/-- Settles O47: a write and a read of each register behind MVTC and MVFC, each within its frame. -/
theorem systemCoprocessorMoves : Obligations.SystemCoprocessorMoves := by
  unfold Obligations.SystemCoprocessorMoves
  intro s reg hs
  refine ⟨⟨_, exec_mvtc_system reg hs, ?_⟩, _, _, exec_mvfc_system reg hs, ?_, ?_, readsScpr_scprRead s reg, ?_⟩
  · have hwrite := writesScpr_scprWrite reg (readReg s 0) s
    obtain ⟨scp, stale, draws, hframe, hstale, hscp⟩ := scprWrite_frame reg (readReg s 0) s
    have hgap : reg = 4 → WritesGap s (scprWrite reg (readReg s 0) s) s.scp.gapIndex (readReg s 0) := by
      rintro rfl
      exact writesGap_gapWrite _ _ s
    rw [hframe] at hwrite hgap ⊢
    exact ⟨rfl, hscp, hstale, hwrite, hgap, keepsGprs_of_gpr rfl _, ⟨rfl, rfl, rfl, rfl⟩,
      ⟨rfl, rfl, rfl, rfl, rfl, rfl, rfl⟩, fun _ => rfl, ⟨rfl, rfl, rfl⟩, ⟨rfl, rfl, rfl, rfl, rfl⟩, rfl, rfl, rfl⟩
  · obtain ⟨draws, hframe⟩ := scprRead_frame reg s
    rw [hframe]
    exact writesReg_retire _ _ rfl rfl ⟨rfl, rfl, rfl, ⟨rfl, rfl, rfl, rfl, rfl, rfl, rfl⟩, rfl, ⟨rfl, rfl, rfl⟩,
      ⟨rfl, rfl, rfl, rfl, rfl⟩, rfl⟩ rfl
  · obtain ⟨draws, hframe⟩ := scprRead_frame reg s
    rw [hframe]
    exact ⟨rfl, rfl, rfl, rfl⟩
  · rintro rfl
    exact readsGap_gapRead s _

/-! ### What a write leaves to be read

A register is read back through the bits a mask selects; the lemmas of this part split a masked word into the
fields that are stored. -/

theorem fields_subBankControl (v : Word) : (0#25 ++ v.extractLsb' 4 3 ++ BitVec.ofBool (v.getLsbD 3)
    ++ BitVec.ofBool (v.getLsbD 2) ++ v.extractLsb' 0 2 : BitVec 32) = v &&& 0x7F := by
  apply BitVec.eq_of_getLsbD_eq
  intro i hi
  simp only [BitVec.getLsbD_append, BitVec.getLsbD_and, BitVec.getLsbD_extractLsb']
  interval_cases i <;> simp

theorem fields_pageNumber (v : Word) : (v.extractLsb' 12 20 ++ 0#12 : BitVec 32) = v &&& 0xFFFFF000 := by
  apply BitVec.eq_of_getLsbD_eq
  intro i hi
  simp only [BitVec.getLsbD_append, BitVec.getLsbD_and, BitVec.getLsbD_extractLsb']
  interval_cases i <;> simp

theorem fields_subBank (v : Word) : (v.extractLsb' 12 20 ++ v.extractLsb' 0 12 : BitVec 32) = v := by
  apply BitVec.eq_of_toNat_eq
  rw [toNat_append, toNat_extract, toNat_extract]
  omega

theorem fields_tlbIndex (v : Word) : zext (v.extractLsb' 0 9) = v &&& 0x1FF := by
  apply BitVec.eq_of_getLsbD_eq
  intro i hi
  unfold zext
  interval_cases i <;> simp

theorem merge_pid (p : BitVec 8) (v : Word) : zext (v.extractLsb' 0 8) = zext p &&& ~~~0xFF ||| v &&& 0xFF := by
  apply BitVec.eq_of_getLsbD_eq
  intro i hi
  unfold zext
  interval_cases i <;> simp

theorem merge_control (e a b : BitVec 4) (v : Word) :
    (0#20 ++ e ++ v.extractLsb' 4 4 ++ v.extractLsb' 0 4 : BitVec 32)
      = (0#20 ++ e ++ a ++ b : BitVec 32) &&& ~~~0xFF#32 ||| v &&& 0xFF#32 := by
  apply BitVec.eq_of_getLsbD_eq
  intro i hi
  simp only [BitVec.getLsbD_append, BitVec.getLsbD_or, BitVec.getLsbD_and, BitVec.getLsbD_not,
    BitVec.getLsbD_extractLsb']
  interval_cases i <;> simp

theorem merge_global (e f g a b c d : BitVec 4) (v : Word) :
    (e ++ 0#4 ++ f ++ v.extractLsb' 16 4 ++ v.extractLsb' 12 4 ++ g ++ v.extractLsb' 4 4 ++ v.extractLsb' 0 4
        : BitVec 32)
      = (e ++ 0#4 ++ f ++ a ++ b ++ g ++ c ++ d : BitVec 32) &&& ~~~0x000FF0FF#32 ||| v &&& 0x000FF0FF#32 := by
  apply BitVec.eq_of_getLsbD_eq
  intro i hi
  simp only [BitVec.getLsbD_append, BitVec.getLsbD_or, BitVec.getLsbD_and, BitVec.getLsbD_not,
    BitVec.getLsbD_extractLsb']
  interval_cases i <;> simp

theorem merge_none (a v : Word) : a = a &&& ~~~0 ||| v &&& 0 := by
  rw [show (0 : Word) = 0#32 from rfl, BitVec.not_zero, BitVec.and_allOnes, BitVec.and_zero, BitVec.or_zero]

theorem merge_all (a v : Word) : v = a &&& ~~~0xFFFFFFFF ||| v &&& 0xFFFFFFFF := by
  rw [show (0xFFFFFFFF : Word) = BitVec.allOnes 32 from rfl, BitVec.not_allOnes, BitVec.and_zero, BitVec.zero_or,
    BitVec.and_allOnes]

/-- What is left to be read of each register of the general access point: the bits of the mask as written. -/
theorem gapValue_writeGapReg {r : GapReg} (v : Word) (s : State) : gapValue (writeGapReg v s r) r
    = gapValue s r &&& ~~~gapMask r ||| v &&& gapMask r := by
  cases r with
  | pid => exact merge_pid _ v
  | spmGlobal => exact merge_global _ _ _ _ _ _ _ v
  | iControl n =>
    simp only [gapValue, writeGapReg, spmBankAt_changeISpm]
    exact merge_control _ _ _ v
  | dControl n =>
    simp only [gapValue, writeGapReg, spmBankAt_changeDSpm]
    exact merge_control _ _ _ v
  | iStart n | iEnd n =>
    simp only [gapValue, writeGapReg, spmBankAt_changeISpm]
    exact merge_all _ v
  | dStart n | dEnd n =>
    simp only [gapValue, writeGapReg, spmBankAt_changeDSpm]
    exact merge_all _ v
  | _ => exact merge_none _ v

theorem gapIndex_writeGapReg (r : GapReg) (v : Word) (s : State) :
    (writeGapReg v s r).scp.gapIndex = s.scp.gapIndex := by
  cases r <;> rfl

/-- The mode is as it was after a write of any register of the system coprocessor. -/
theorem isUser_scprWrite (reg : BitVec 4) (v : Word) (s : State) : isUser (retire (scprWrite reg v s)) = isUser s := by
  obtain ⟨_, _, _, hframe, -⟩ := scprWrite_frame reg v s
  rw [hframe]
  rfl

/-- A register read after it is written. -/
theorem write_then_read {s : State} (reg : BitVec 4) (h : isUser s = false) :
    ∃ u, exec (.mvtc 0 reg) s = .next (retire (scprWrite reg (readReg s 0) s))
      ∧ exec (.mvfc 0 reg) (retire (scprWrite reg (readReg s 0) s)) = .next u
      ∧ readReg u 0 = (scprRead reg (retire (scprWrite reg (readReg s 0) s))).1 :=
  ⟨_, exec_mvtc_system reg h, exec_mvfc_system reg ((isUser_scprWrite reg _ s).trans h),
    readReg_writeReg_same (scprRead reg _).2 0 _⟩

theorem scprRead_subBank (v : Word) (s : State) : (scprRead 5 (retire (scprWrite 5 v s))).1 = v := by
  have h := subBankAt_writeSubBank s s.scp.subBankIndex s.scp.subBankIndex
    { selectedSubBank s with base := v.extractLsb' 12 20, size := v.extractLsb' 0 12 }
  rw [if_pos rfl] at h
  exact (congrArg (fun b : SubBank => (b.base ++ b.size : BitVec 32)) h).trans (fields_subBank v)

theorem scprRead_tlb (v : Word) (s : State) : (scprRead 6 (retire (scprWrite 6 v s))).1
    = v &&& (if s.scp.tlbIndex.getLsbD 0 then 0xFFFFF000 else 0xFFFFFFFF) := by
  have read (e : TlbEntry) : readTlb (retire (writeTlb s (selectedSlot s) e))
      (selectedSlot (retire (writeTlb s (selectedSlot s) e))) = e :=
    (readTlb_writeTlb s (selectedSlot s) (selectedSlot s) e).trans (if_pos rfl)
  have index (e : TlbEntry) : (retire (writeTlb s (selectedSlot s) e)).scp.tlbIndex = s.scp.tlbIndex := rfl
  rw [scprWrite_tlb, scprRead_six, read, index]
  cases s.scp.tlbIndex.getLsbD 0 with
  | true => exact fields_pageNumber v
  | false => exact (BitVec.and_allOnes (x := v)).symm

theorem scprRead_subBankControl (v : Word) (s : State) : (scprRead 8 (retire (scprWrite 8 v s))).1 = v &&& 0x7F := by
  have h := subBankAt_writeSubBank { s with scp := { s.scp with subBankIndex := v.extractLsb' 4 3 } }
    (v.extractLsb' 4 3) (v.extractLsb' 4 3) { subBankAt s (v.extractLsb' 4 3) with
      valid := v.getLsbD 3, ar := v.getLsbD 2, cc := v.extractLsb' 0 2 }
  rw [if_pos rfl] at h
  exact (congrArg (fun b : SubBank => (0#25 ++ v.extractLsb' 4 3 ++ BitVec.ofBool b.valid ++ BitVec.ofBool b.ar ++ b.cc
    : BitVec 32)) h).trans (fields_subBankControl v)

/-- A read through the general access point, a write, and a read again. -/
theorem gap_write_then_read {s : State} {r : GapReg} (hr : r ≠ .ead) (hs : isUser s = false)
    (hi : s.scp.gapIndex = gapIndexOf r) : ∃ t u w, exec (.mvfc 0 4) s = .next t ∧ exec (.mvtc 0 4) s = .next u
      ∧ exec (.mvfc 0 4) u = .next w
      ∧ readReg w 0 = readReg t 0 &&& ~~~gapMask r ||| readReg s 0 &&& gapMask r := by
  obtain ⟨w, hwrite, hread, hvalue⟩ := write_then_read 4 hs
  refine ⟨_, _, w, exec_mvfc_system 4 hs, hwrite, hread, hvalue.trans ?_⟩
  have before : (scprRead 4 s).1 = gapValue s r := by
    show (gapRead s.scp.gapIndex s).1 = _
    rw [hi, gapRead_gapIndexOf s hr]
  have after : (scprRead 4 (retire (scprWrite 4 (readReg s 0) s))).1 = gapValue (writeGapReg (readReg s 0) s r) r := by
    have hw : scprWrite 4 (readReg s 0) s = writeGapReg (readReg s 0) s r := by
      show gapWrite s.scp.gapIndex (readReg s 0) s = _
      rw [hi, gapWrite_gapIndexOf]
    rw [hw]
    show (gapRead (writeGapReg (readReg s 0) s r).scp.gapIndex (retire (writeGapReg (readReg s 0) s r))).1 = _
    rw [gapIndex_writeGapReg, hi, gapRead_gapIndexOf _ hr]
    cases r <;> rfl
  rw [after, gapValue_writeGapReg]
  refine congrArg (fun x => x &&& _ ||| _) (before.symm.trans ?_)
  exact (readReg_writeReg_same (scprRead 4 s).2 0 _).symm

/-- Settles O48: what each register holds after a write is the masked word, merged with what the mask keeps. -/
theorem systemRegistersReadBack : Obligations.SystemRegistersReadBack := by
  unfold Obligations.SystemRegistersReadBack
  intro s hs
  refine ⟨?_, ?_, fun n f hf hi => ?_⟩
  · have back (reg : BitVec 4) {mask : Word}
        (h : (scprRead reg (retire (scprWrite reg (readReg s 0) s))).1 = readReg s 0 &&& mask) :
        ∃ t u, exec (.mvtc 0 reg) s = .next t ∧ exec (.mvfc 0 reg) t = .next u ∧ readReg u 0 = readReg s 0 &&& mask :=
      have ⟨u, hwrite, hread, hvalue⟩ := write_then_read reg hs
      ⟨_, u, hwrite, hread, hvalue.trans h⟩
    have whole (v : Word) : v = v &&& 0xFFFFFFFF := (BitVec.and_allOnes (x := v)).symm
    simp only [List.forall_mem_cons, List.not_mem_nil, IsEmpty.forall_iff, implies_true, and_true]
    exact ⟨back 3 (whole _), back 5 ((scprRead_subBank _ s).trans (whole _)), back 7 (fields_tlbIndex _),
      back 8 (scprRead_subBankControl _ s), back 9 (whole _), back 12 rfl, back 13 rfl, back 6 (scprRead_tlb _ s)⟩
  · obtain ⟨u, hwrite, hread, hvalue⟩ := write_then_read 15 hs
    refine ⟨_, u, hwrite, hread, rfl, ?_⟩
    rw [hvalue]
    refine (statusWord_toNat _).trans ?_
    have hcode : (0b1111#4).toNat * 2 ^ 2 + false.toNat * 2 = 0x3C := rfl
    show 0x90030000 + (tlbConfigCode s.cfg.tlbConfig).toNat * 2 ^ 19 + s.cfg.cacheAbsent.toNat * 2 ^ 18
      + (0b1111#4).toNat * 2 ^ 2 + false.toNat * 2 = _
    omega
  · simp only [List.mem_cons, List.not_mem_nil, or_false] at hf
    rcases hf with rfl | rfl | rfl | rfl | rfl | rfl | rfl | rfl | rfl | rfl | rfl | rfl | rfl | rfl | rfl | rfl | rfl
    · exact gap_write_then_read (r := .backupIr) nofun hs hi
    · exact gap_write_then_read (r := .backupEr) nofun hs hi
    · exact gap_write_then_read (r := .backupPc) nofun hs hi
    · exact gap_write_then_read (r := .itlbMiss) nofun hs hi
    · exact gap_write_then_read (r := .dtlbMiss) nofun hs hi
    · exact gap_write_then_read (r := .pid) nofun hs hi
    · exact gap_write_then_read (r := .icacheLock) nofun hs hi
    · exact gap_write_then_read (r := .dcacheLock) nofun hs hi
    · exact gap_write_then_read (r := .ibusError) nofun hs hi
    · exact gap_write_then_read (r := .dbusError) nofun hs hi
    · exact gap_write_then_read (r := .spmGlobal) nofun hs hi
    · exact gap_write_then_read (r := .iControl n) nofun hs hi
    · exact gap_write_then_read (r := .iStart n) nofun hs hi
    · exact gap_write_then_read (r := .iEnd n) nofun hs hi
    · exact gap_write_then_read (r := .dControl n) nofun hs hi
    · exact gap_write_then_read (r := .dStart n) nofun hs hi
    · exact gap_write_then_read (r := .dEnd n) nofun hs hi

/-! ### A coprocessor that is not reached -/

/-- Coprocessor 0 in user mode (44_coprocessor.md R421). -/
theorem coprocAccess_user {s : State} (onSystem : State → Outcome) (onAttached : CoprocRegs → State → Outcome)
    (h : isUser s = true) : coprocAccess 0 onSystem onAttached s = exceptionEntry 0x20 s.pc .normal
      { s with scp := { s.scp with pendingCode := 0b0010, pending := true } } :=
  if_pos h

/-- An absent coprocessor, or a supervisor-only one in user mode (R422). -/
theorem coprocAccess_unavailable {s : State} {p : BitVec 2} (onSystem : State → Outcome)
    (onAttached : CoprocRegs → State → Outcome) (hp : p ≠ 0)
    (h : (coproc s p).present = false ∨ (isUser s = true ∧ (coproc s p).supervisorOnly = true)) :
    coprocAccess p onSystem onAttached s
      = exceptionEntry (BitVec.ofNat 32 (0x20 + 4 * p.toNat)) s.pc .normal s := by
  have guard : (!(coproc s p).present || (isUser s && (coproc s p).supervisorOnly)) = true := by
    rcases h with h | ⟨hu, hs⟩
    · simp [h]
    · simp [hu, hs]
  rw [coprocAccess, if_neg hp, if_pos guard, takeFault, coprocVector_eq]

/-- An attached coprocessor that the mode may use (R422). -/
theorem coprocAccess_attached {s : State} {p : BitVec 2} (onSystem : State → Outcome)
    (onAttached : CoprocRegs → State → Outcome) (hp : p ≠ 0) (h : (coproc s p).present = true)
    (hmode : isUser s = false ∨ (coproc s p).supervisorOnly = false) :
    coprocAccess p onSystem onAttached s = onAttached (coproc s p).held s := by
  have guard : ¬(!(coproc s p).present || (isUser s && (coproc s p).supervisorOnly)) = true := by
    rcases hmode with hu | hs
    · simp [h, hu]
    · simp [h, hs]
  rw [coprocAccess, if_neg hp, if_neg guard]

/-- Each of the nine instructions asks for its coprocessor first. -/
theorem exec_coprocessor {i : Instr} {p : BitVec 2} {b6 : BitVec 6} {b4 : BitVec 4}
    (hi : i ∈ [Instr.cpcmd p b6, .getc p b4, .execCp p b4, .mvtc p b4, .mvfc p b4, .ldcSp p b4, .ldcIdx p b4,
      .stcSp p b4, .stcIdx p b4]) :
    ∃ onSystem onAttached, ∀ s, exec i s = coprocAccess p onSystem onAttached s := by
  simp only [List.mem_cons, List.not_mem_nil, or_false] at hi
  rcases hi with rfl | rfl | rfl | rfl | rfl | rfl | rfl | rfl | rfl
  · exact ⟨_, _, fun s => (rfl : _ = execCpcmd p b6 s)⟩
  · exact ⟨_, _, fun s => (rfl : _ = execGetc p b4 s)⟩
  · exact ⟨_, _, fun s => (rfl : _ = execExecCp p b4 s)⟩
  · exact ⟨_, _, fun s => (rfl : _ = execMvtc p b4 s)⟩
  · exact ⟨_, _, fun s => (rfl : _ = execMvfc p b4 s)⟩
  · exact ⟨_, _, fun s => (rfl : _ = coprocLoad p b4 readSp s)⟩
  · exact ⟨_, _, fun s => (rfl : _ = coprocLoad p b4 (fun s => readReg s 1) s)⟩
  · exact ⟨_, _, fun s => (rfl : _ = coprocStore p b4 readSp s)⟩
  · exact ⟨_, _, fun s => (rfl : _ = coprocStore p b4 (fun s => readReg s 1) s)⟩

/-- Settles O49: the test that comes before each of the nine instructions. -/
theorem coprocessorUnavailable : Obligations.CoprocessorUnavailable := by
  unfold Obligations.CoprocessorUnavailable
  intro s p b6 b4
  refine ⟨fun i hi => ?_, fun hmode => ?_⟩
  · obtain ⟨onSystem, onAttached, hexec⟩ := exec_coprocessor hi
    rw [hexec s]
    refine ⟨?_, coprocAccess_unavailable onSystem onAttached⟩
    rintro rfl
    exact coprocAccess_user onSystem onAttached
  · have hs : ¬isUser s = true := by simp [hmode]
    simp only [List.forall_mem_cons, List.not_mem_nil, IsEmpty.forall_iff, implies_true, and_true]
    exact ⟨⟨if_neg hs, if_neg hs, if_neg hs⟩, if_neg hs, if_neg hs, if_neg hs, if_neg hs⟩

/-! ### An attached coprocessor -/

/-- The unit ends and, of what a coprocessor instruction has nothing to do with, everything is as it was. -/
def Quiet (s t : State) : Prop :=
  t.spr = s.spr ∧ KeepsSystemBits s t ∧ t.halted = s.halted ∧ t.lockup = s.lockup ∧ t.cfg = s.cfg
    ∧ UnitEnds t (nextAddr s)

/-- Coprocessor `p` is attached as it was, and the other coprocessors are the same. -/
def OnlyHeld (s : State) (p : BitVec 2) (t : State) : Prop :=
  (coproc t p).present = true ∧ (coproc t p).supervisorOnly = (coproc s p).supervisorOnly
    ∧ ∀ q : BitVec 2, q ≠ 0 → q ≠ p → coproc t q = coproc s q

theorem quiet_retire {s w : State} (h : Accessed s w) : Quiet s (retire w) :=
  ⟨h.spr, h.keepsSystemBits, h.halted, h.lockup, h.cfg, nextAddr_of_accessed h ▸ unitEnds_retire w⟩

/-- A unit whose accesses left `w` and that ends with coprocessor `p` holding `held`. -/
structure HoldsUnit (s : State) (p : BitVec 2) (held : CoprocRegs) (w t : State) : Prop where
  held : (coproc t p).held = held
  others : OnlyHeld s p t
  quiet : Quiet s t
  memory : ∀ l, t.byteAt l = w.byteAt l
  scp : t.scp = w.scp
  stale : t.stale = w.stale
  events : t.events = w.events
  env : t.env = w.env
  gprs : KeepsGprs s t []
  flags : KeepsFlags s t

theorem holdsUnit_retire {s w : State} {p : BitVec 2} (held : CoprocRegs) (ha : Accessed s w) (hp : p ≠ 0)
    (h : (coproc s p).present = true) : HoldsUnit s p held w (retire (withHeld p held w)) := by
  obtain ⟨hown, hothers⟩ := coproc_withHeld s w ha.cp1 ha.cp2 ha.cp3 p hp held
  obtain ⟨c1, c2, c3, hframe⟩ := withHeld_frame p held w
  have hown' : coproc (retire (withHeld p held w)) p = { coproc s p with held := held } := hown
  refine ⟨by rw [hown'], ⟨by rw [hown']; exact h, by rw [hown'], hothers⟩, ?_, ?_, ?_, ?_, ?_, ?_, ?_, ?_⟩
  · rw [hframe]
    exact (quiet_retire ha : Quiet s (retire w))
  · rw [hframe]
    exact fun _ => rfl
  · rw [hframe]
    rfl
  · rw [hframe]
    rfl
  · rw [hframe]
    rfl
  · rw [hframe]
    rfl
  · rw [hframe]
    exact keepsGprs_of_gpr ha.gpr _
  · rw [hframe]
    exact keepsFlags_retire ha.sr

theorem HoldsUnit.still {s t : State} {p : BitVec 2} {held : CoprocRegs} (h : HoldsUnit s p held s t) :
    KeepsMemory s t ∧ KeepsScp s t ∧ KeepsPlatform s t ∧ t.stale = s.stale := by
  obtain ⟨-, -, hhalted, hlockup, hcfg, -⟩ := h.quiet
  exact ⟨h.memory, h.scp, ⟨hhalted, hlockup, hcfg, h.env, h.events⟩, h.stale⟩

/-- A unit that sets Z alone. -/
theorem zFlag_unit (s : State) (z : Bool) :
    let t := retire { s with sr := { s.sr with z := z } }
    t.sr.z = z ∧ t.sr.c = s.sr.c ∧ t.sr.s = s.sr.s ∧ t.sr.v = s.sr.v ∧ KeepsCoprocs s t ∧ Quiet s t
      ∧ (KeepsMemory s t ∧ KeepsScp s t ∧ KeepsPlatform s t ∧ t.stale = s.stale) ∧ KeepsGprs s t [] :=
  ⟨rfl, rfl, rfl, rfl, ⟨rfl, rfl, rfl⟩, ⟨rfl, ⟨rfl, rfl, rfl, rfl, rfl, rfl, rfl⟩, rfl, rfl, rfl, rfl, rfl, rfl⟩,
    ⟨fun _ => rfl, rfl, ⟨rfl, rfl, rfl, rfl, rfl⟩, rfl⟩, keepsGprs_of_gpr rfl _⟩

/-- The word read goes to a register of the coprocessor, the others stay. -/
def LoadsHeld (s : State) (p : BitVec 2) (r : BitVec 4) (t : State) (v : Word) : Prop :=
  heldReg (coproc t p).held r = v ∧ (∀ q, q ≠ r → heldReg (coproc t p).held q = heldReg (coproc s p).held q)
    ∧ (coproc t p).held.status = (coproc s p).held.status

theorem HoldsUnit.loadsHeld {s w t : State} {p : BitVec 2} {r : BitVec 4} {v : Word}
    (h : HoldsUnit s p (setHeldReg (coproc s p).held r v) w t) : LoadsHeld s p r t v := by
  unfold LoadsHeld
  rw [h.held]
  exact heldReg_setHeldReg _ r v

/-- LDC from a target that answers (44_coprocessor.md R429). -/
theorem coprocLoad_of_exec {i : Instr} {s : State} {p : BitVec 2} {r : BitVec 4} {ea : Word} (hp : p ≠ 0)
    (hpresent : (coproc s p).present = true)
    (h : exec i s = conclude (memRead .word ea s) fun v w =>
      .next (retire (withHeld p (setHeldReg (coproc s p).held r v) w))) :
    ∀ g u, locate .read (isUser s) .word ea s = .ok g u → ∃ t, exec i s = .next t
      ∧ LoadsHeld s p r t (readTarget .word g u).1 ∧ AnswersRead s g 4 (readTarget .word g u).1 t.env
      ∧ OnlyHeld s p t ∧ Quiet s t ∧ KeepsMemory s t ∧ t.scp = u.scp ∧ t.stale = s.stale ∧ t.events = s.events
      ∧ t.env = (readTarget .word g u).2.env ∧ KeepsGprs s t [] ∧ KeepsFlags s t := by
  intro g u hl
  have hread := readLeaves_of_locate hl (SameAround.refl _)
  have ha : Accessed s (readTarget .word g u).2 := (accessed_of_locate hl).trans (accessed_readTarget .word g u)
  have hunit := holdsUnit_retire (setHeldReg (coproc s p).held r (readTarget .word g u).1) ha hp hpresent
  refine ⟨_, h.trans ?_, hunit.loadsHeld, hunit.env ▸ hread.answers, hunit.others, hunit.quiet,
    fun l => (hunit.memory l).trans (hread.memory l), hunit.scp.trans hread.scp, hunit.stale.trans hread.stale,
    hunit.events.trans hread.events, hunit.env, hunit.gprs, hunit.flags⟩
  simp [memRead, memReadAs, hl, andThen, conclude]

/-- What STC leaves in the target of its access. -/
def StoresHeld (s : State) (v : Word) (t : State) (g : Target) : Prop :=
  (∀ l cc, g = .storage l cc → KeepsMemoryOutside s t l 4 ∧ t.events = s.events
    ∧ ∀ k < 4, t.byteAt { l with addr := l.addr + k } = storedByte s.sr.endian 4 k v)
  ∧ (∀ pa, g = .device pa → KeepsMemory s t ∧ t.events = s.events ++ [.deviceWrite pa 4 v])
  ∧ (g = .openBus → KeepsMemory s t ∧ t.events = s.events)

/-- STC to a target that answers (R430). -/
theorem coprocStore_of_exec {i : Instr} {s : State} {ea v : Word}
    (h : exec i s = conclude (memWrite .word ea v s) fun _ w => .next (retire w)) :
    ∀ g u, locate .write (isUser s) .word ea s = .ok g u → ∃ t, exec i s = .next t ∧ StoresHeld s v t g
      ∧ KeepsCoprocs s t ∧ Quiet s t ∧ t.scp = u.scp ∧ t.env = s.env ∧ KeepsGprs s t [] ∧ KeepsFlags s t := by
  intro g u hl
  have hw := writeLeaves_of_locate (v := v) (t := retire (writeTarget .word g v u)) hl
    ⟨rfl, rfl, rfl, ⟨rfl, rfl, rfl, rfl, rfl, rfl, rfl⟩, rfl, ⟨rfl, rfl, rfl⟩, ⟨rfl, rfl, rfl, rfl, rfl⟩, rfl⟩
  have ha : Accessed s (writeTarget .word g v u) := (accessed_of_locate hl).trans (accessed_writeTarget .word g v u)
  refine ⟨_, h.trans ?_, ⟨hw.storage, fun pa hg => ?_, fun hg => ?_⟩, ⟨ha.cp1, ha.cp2, ha.cp3⟩, quiet_retire ha, hw.scp,
    hw.env, keepsGprs_of_gpr ha.gpr _, keepsFlags_retire ha.sr⟩
  · simp [memWrite, memWriteAs, hl, andThen, conclude]
  · obtain ⟨hmem, -, hevents⟩ := hw.device pa hg
    exact ⟨hmem, hevents⟩
  · obtain ⟨hmem, -, hevents⟩ := hw.openBus hg
    exact ⟨hmem, hevents⟩

theorem coprocs_of_raise {kind : AccessKind} {user : Bool} {z : AccessSize} {ea off : Word} {s u : State}
    (h : locate kind user z ea s = .raise off u) : u.cp1 = s.cp1 ∧ u.cp2 = s.cp2 ∧ u.cp3 = s.cp3 := by
  have ha := accKeeps_locate kind user z ea s
  rw [h] at ha
  exact ⟨Accessed.cp1 ha, Accessed.cp2 ha, Accessed.cp3 ha⟩

/-- Settles O50: each of the nine instructions on a coprocessor that is reached. -/
theorem attachedCoprocessors : Obligations.AttachedCoprocessors := by
  unfold Obligations.AttachedCoprocessors
  intro s p b6 b4 hp hpresent hmode h others quiet still loaded stored
  have reached (onSystem : State → Outcome) (onAttached : CoprocRegs → State → Outcome) :
      coprocAccess p onSystem onAttached s = onAttached h s := coprocAccess_attached _ _ hp hpresent hmode
  have own := Accessed.refl s
  refine ⟨?_, ?_, fun hbit => ?_, fun hbit => ?_, ?_, ?_, ?_, ?_⟩
  · have hu := holdsUnit_retire (Config.cpCommand p b6 h) own hp hpresent
    exact ⟨_, (rfl : _ = execCpcmd p b6 s).trans (reached _ _), hu.held, hu.others, hu.quiet, hu.still, hu.gprs, hu.flags⟩
  · exact ⟨_, (rfl : _ = execGetc p b4 s).trans (reached _ _), zFlag_unit s _⟩
  · have hclear : ¬h.status.getLsbD b4.toNat = true := by simp [hbit]
    have hz := zFlag_unit s (!h.status.getLsbD b4.toNat)
    rw [hbit] at hz
    refine ⟨_, ((rfl : _ = execExecCp p b4 s).trans (reached _ _)).trans ((if_neg hclear).trans ?_), hz⟩
    rw [hbit]
  · refine ((rfl : _ = execExecCp p b4 s).trans (reached _ _)).trans ((if_pos hbit).trans ?_)
    rw [takeTrap, coprocVector_eq, hbit]
    rfl
  · have hu := holdsUnit_retire (setHeldReg h b4 (readReg s 0)) own hp hpresent
    exact ⟨_, (rfl : _ = execMvtc p b4 s).trans (reached _ _), hu.loadsHeld, hu.others, hu.quiet, hu.still, hu.gprs,
      hu.flags⟩
  · exact ⟨_, (rfl : _ = execMvfc p b4 s).trans (reached _ _), writesReg_retire 0 _ rfl rfl (SameAround.refl s) rfl,
      rfl, rfl, rfl, rfl⟩
  · have raised {i : Instr} {ea : Word} {f : Word → State → Outcome} (hexec : exec i s = conclude (memRead .word ea s) f) :
        ∀ off u, locate .read (isUser s) .word ea s = .raise off u →
          exec i s = exceptionEntry off s.pc .normal u ∧ u.cp1 = s.cp1 ∧ u.cp2 = s.cp2 ∧ u.cp3 = s.cp3 :=
      fun _ _ hl => ⟨hexec.trans (conclude_memRead_raise f hl), coprocs_of_raise hl⟩
    simp only [List.forall_mem_cons, List.not_mem_nil, IsEmpty.forall_iff, implies_true, and_true]
    have hsp := (show exec (.ldcSp p b4) s = coprocLoad p b4 readSp s from rfl).trans (reached _ _)
    have hidx := (show exec (.ldcIdx p b4) s = coprocLoad p b4 (fun s => readReg s 1) s from rfl).trans (reached _ _)
    exact ⟨⟨coprocLoad_of_exec hp hpresent hsp, raised hsp⟩, coprocLoad_of_exec hp hpresent hidx, raised hidx⟩
  · have raised {i : Instr} {ea v : Word} {f : Unit → State → Outcome}
        (hexec : exec i s = conclude (memWrite .word ea v s) f) :
        ∀ off u, locate .write (isUser s) .word ea s = .raise off u →
          exec i s = exceptionEntry off s.pc .normal u ∧ KeepsMemory s u := fun off u hl =>
      have ⟨_, _, _, _, hmem, _⟩ := locate_raise_frame hl
      ⟨hexec.trans (conclude_memWrite_raise f hl), hmem⟩
    simp only [List.forall_mem_cons, List.not_mem_nil, IsEmpty.forall_iff, implies_true, and_true]
    have hsp := (show exec (.stcSp p b4) s = coprocStore p b4 readSp s from rfl).trans (reached _ _)
    have hidx := (show exec (.stcIdx p b4) s = coprocStore p b4 (fun s => readReg s 1) s from rfl).trans (reached _ _)
    exact ⟨⟨coprocStore_of_exec hsp, raised hsp⟩, coprocStore_of_exec hidx, raised hidx⟩

end Sys2Proof.Machine

/-! SUPPORT. The system instructions that enter no exception. -/

namespace Sys2Proof.Machine

open Sys2Proof.Safety

/-- A stale halfword survives SYNC while something is to be done for it (20_memory.md R183). -/
theorem mem_syncStale_iff {s : State} {e : Stale} : e ∈ (syncStale s).stale
    ↔ ∃ f ∈ s.stale, (f.writeBack ≠ 0 ∨ f.invalidate ≠ 0) ∧ e = { f with synced := true } := by
  refine ⟨fun h => ?_, ?_⟩
  · obtain ⟨-, f, hmem, heq, hopen⟩ := mem_syncStale h
    exact ⟨f, hmem, not_and_or.mp hopen, heq⟩
  · rintro ⟨f, hmem, hopen, rfl⟩
    rw [syncStale_stale, List.mem_map]
    refine ⟨f, List.mem_filter.mpr ⟨hmem, ?_⟩, rfl⟩
    simpa using hopen

/-- Settles O51: NOP with and without the latch, SYNC, and HALT in supervisor mode. -/
theorem nopSyncHalt : Obligations.NopSyncHalt := by
  unfold Obligations.NopSyncHalt
  intro s n
  refine ⟨?_, ?_, fun hmode => ?_⟩
  · by_cases hn : n = 1
    · subst hn
      obtain ⟨d, er, h, her⟩ := latchBackup_frame (encode (.nop 1)) s
      refine ⟨_, (show exec (.nop 1) s = .next (retire (latchBackup (encode (.nop 1)) s)) from rfl), ?_⟩
      rw [h]
      exact ⟨keepsGprs_of_gpr rfl _, rfl, ⟨rfl, rfl, rfl, rfl⟩, ⟨rfl, rfl, rfl, rfl, rfl, rfl, rfl⟩, fun _ => rfl,
        ⟨rfl, rfl, rfl⟩, ⟨rfl, rfl, rfl, rfl, rfl⟩, rfl, ⟨rfl, rfl, rfl⟩, fun hne => absurd rfl hne, fun _ => ⟨rfl, her⟩⟩
    · exact ⟨_, if_neg hn, keepsGprs_of_gpr rfl _, rfl, ⟨rfl, rfl, rfl, rfl⟩, ⟨rfl, rfl, rfl, rfl, rfl, rfl, rfl⟩,
        fun _ => rfl, ⟨rfl, rfl, rfl⟩, ⟨rfl, rfl, rfl, rfl, rfl⟩, rfl, ⟨rfl, rfl, rfl⟩, fun _ => rfl,
        fun h => absurd h hn⟩
  · exact ⟨_, (show exec (.sync 0) s = .next (retire (syncStale s)) from rfl), keepsGprs_of_gpr rfl _, rfl,
      ⟨rfl, rfl, rfl, rfl⟩, ⟨rfl, rfl, rfl, rfl, rfl, rfl, rfl⟩, fun _ => rfl, rfl, ⟨rfl, rfl, rfl⟩, ⟨rfl, rfl, rfl, rfl, rfl⟩, fun _ => mem_syncStale_iff, rfl, rfl, rfl⟩
  · have hs : ¬isUser s = true := by simp [hmode]
    exact ⟨_, if_neg hs, rfl, rfl, keepsGprs_of_gpr rfl _, rfl, ⟨rfl, rfl, rfl, rfl⟩,
      ⟨rfl, rfl, rfl, rfl, rfl, rfl, rfl⟩, fun _ => rfl, rfl, ⟨rfl, rfl, rfl⟩, rfl, rfl, rfl, rfl, rfl, rfl, rfl⟩

/-- SET or CLR of a bit that the mode may change (46_system.md R496 to R498). -/
theorem exec_setOrClear {s : State} {pos : BitVec 4} {field : SrField} (b : Bool)
    (hfield : srFieldAt s.cfg.srLayout pos = field) (h : isUser s = false ∨ isSystemField field = false) :
    exec (if b then .set pos else .clr pos) s = .next (retire { s with sr := s.sr.withField field b }) := by
  have guard : ¬(isUser s && isSystemField field) = true := by
    rcases h with h | h <;> simp [h]
  subst hfield
  cases b with
  | true => exact if_neg guard
  | false => exact if_neg guard

/-- Settles O52: the field at each position of the default layout, and the one change of SR that it makes. -/
theorem setAndClearBits : Obligations.SetAndClearBits := by
  unfold Obligations.SetAndClearBits
  intro s b hlayout
  have change {pos : BitVec 4} {sr : SR} (field : SrField) (hfield : srFieldAt defaultSrLayout pos = field)
      (hsr : s.sr.withField field b = sr)
      (hsystem : pos ∈ [0, 1, 2, 3, 4, 5, 6, 7, 10, 11] → isSystemField field = false) :
      isUser s = false ∨ pos ∈ [0, 1, 2, 3, 4, 5, 6, 7, 10, 11] →
      ∃ t, exec (if b then .set pos else .clr pos) s = .next t ∧ t.sr = { sr with e := false }
        ∧ KeepsGprs s t [] ∧ t.spr = s.spr ∧ KeepsMemory s t ∧ KeepsScp s t ∧ KeepsCoprocs s t
        ∧ KeepsPlatform s t ∧ t.stale = s.stale ∧ UnitEnds t (nextAddr s) := by
    intro hallowed
    refine ⟨_, exec_setOrClear b (hlayout ▸ hfield) (hallowed.imp_right hsystem), ?_, keepsGprs_of_gpr rfl _, rfl,
      fun _ => rfl, rfl, ⟨rfl, rfl, rfl⟩, ⟨rfl, rfl, rfl, rfl, rfl⟩, rfl, rfl, rfl, rfl⟩
    rw [← hsr]
    rfl
  simp only [List.forall_mem_cons, List.not_mem_nil, IsEmpty.forall_iff, implies_true, and_true]
  exact ⟨change .modeHi rfl rfl (by decide), change .nmi rfl rfl (by decide), change .int rfl rfl (by decide),
    change .vi rfl rfl (by decide), change .e rfl rfl (by decide), change .endian rfl rfl (by decide),
    change .modeLo rfl rfl (by decide), change .l rfl rfl (by decide), change .c rfl rfl (by decide),
    change .z rfl rfl (by decide), change .s rfl rfl (by decide), change .v rfl rfl (by decide),
    change .unused rfl rfl (by decide), change .unused rfl rfl (by decide), change .unused rfl rfl (by decide),
    change .unused rfl rfl (by decide)⟩

/-- Settles O54: the debug unit, a blank nibble that is not 0, and a LERI before MRS, ROR or ROL. -/
theorem stoppedInstructions : Obligations.StoppedInstructions := by
  unfold Obligations.StoppedInstructions
  intro s blank imm dst
  simp only [List.forall_mem_cons, List.not_mem_nil, IsEmpty.forall_iff, implies_true, and_true]
  refine ⟨⟨rfl, rfl⟩, fun hb => ⟨if_neg hb, if_neg hb, if_neg hb, if_neg hb⟩, fun hdsp he => ?_⟩
  exact ⟨(if_pos hdsp).trans (if_pos he), (if_pos hdsp).trans (if_pos he), (if_pos hdsp).trans (if_pos he)⟩

end Sys2Proof.Machine

/-! SUPPORT. The DSP option: what the default result functions give, lane by lane, and what each instruction
writes. -/

namespace Sys2Proof.Machine

open Sys2Proof.Safety

/-! ### The end of an instruction of the option -/

/-- A result function is the supplied one, or its default (45_dsp.md R441). -/
theorem dspValue_dspFn {op : DspOp} {default : Word → Word → Word} {a b : Word} {s : State} {P : Prop}
    (h : dspFn op default a b s = default a b → P) : DspValue s op a b (dspFn op default a b s) P :=
  ⟨fun hmem => if_pos hmem, fun hmem => h (if_neg hmem)⟩

/-- An instruction of the option that ends by writing one register. -/
theorem dspInto_of_exec {i : Instr} {s : State} {dst : Reg} {v : Word} (h : exec i s = dspInto dst v s) :
    ∃ t, exec i s = .next t ∧ WritesReg s t dst v :=
  ⟨_, h, writesReg_freeFlags dst v s⟩

/-- One that writes what its result function gives. -/
theorem dspFn_of_exec {i : Instr} {s : State} {op : DspOp} {default : Word → Word → Word} {dst : Reg} {a b : Word}
    {P : Word → Prop} (h : exec i s = dspInto dst (dspFn op default a b s) s) (hP : P (default a b)) :
    ∃ t v, exec i s = .next t ∧ WritesReg s t dst v ∧ DspValue s op a b v (P v) := by
  obtain ⟨t, hexec, hwrites⟩ := dspInto_of_exec h
  exact ⟨t, _, hexec, hwrites, dspValue_dspFn fun he => he.symm ▸ hP⟩

/-! ### Lanes -/

theorem byteLane_mapBytes (f : Byte → Byte → Byte) (a b : Word) {i : Nat} (h : i < 4) :
    byteLane (mapBytes f a b) i = f (byteLane a i) (byteLane b i) := by
  have lane (w x y z : Byte) : byteLane (w ++ x ++ y ++ z) 3 = w ∧ byteLane (w ++ x ++ y ++ z) 2 = x
      ∧ byteLane (w ++ x ++ y ++ z) 1 = y ∧ byteLane (w ++ x ++ y ++ z) 0 = z := by
    refine ⟨?_, ?_, ?_, ?_⟩ <;> apply BitVec.eq_of_toNat_eq <;>
      simp only [byteLane, toNat_extract, toNat_append] <;> omega
  obtain ⟨h3, h2, h1, h0⟩ := lane (f (byteLane a 3) (byteLane b 3)) (f (byteLane a 2) (byteLane b 2))
    (f (byteLane a 1) (byteLane b 1)) (f (byteLane a 0) (byteLane b 0))
  interval_cases i
  · exact h0
  · exact h1
  · exact h2
  · exact h3

theorem shortLane_mapShorts (f : Half → Half → Half) (a b : Word) {i : Nat} (h : i < 2) :
    shortLane (mapShorts f a b) i = f (shortLane a i) (shortLane b i) := by
  have lane (x y : Half) : shortLane (x ++ y) 1 = x ∧ shortLane (x ++ y) 0 = y := by
    refine ⟨?_, ?_⟩ <;> apply BitVec.eq_of_toNat_eq <;>
      simp only [shortLane, toNat_extract, toNat_append] <;> omega
  obtain ⟨h1, h0⟩ := lane (f (shortLane a 1) (shortLane b 1)) (f (shortLane a 0) (shortLane b 0))
  interval_cases i
  · exact h0
  · exact h1

/-! ### Sums and averages of a lane -/

theorem sat_eq {lo hi : Int} (x : Int) (h : lo ≤ hi) : sat x lo hi = Max.max lo (Min.min hi x) := by
  unfold sat
  split
  · omega
  · split <;> omega

theorem satAddSigned_toInt {n : Nat} (h : 0 < n) (a b : BitVec n) : (satAddSigned a b).toInt
    = Max.max (-2 ^ (n - 1)) (Min.min (2 ^ (n - 1) - 1) (a.toInt + b.toInt)) := by
  have hpow : (0 : Int) < 2 ^ (n - 1) := by positivity
  rw [satAddSigned, sat_eq _ (by omega)]
  exact BitVec.toInt_ofInt_eq_self h (by omega) (by omega)

theorem satAddUnsigned_toNat {n : Nat} (a b : BitVec n) : (satAddUnsigned a b).toNat
    = Min.min (2 ^ n - 1) (a.toNat + b.toNat) := by
  have hpow : 0 < 2 ^ n := by positivity
  have hcast : ((2 ^ n : Nat) : Int) = 2 ^ n := by norm_cast
  rw [satAddUnsigned, sat_eq _ (by omega), BitVec.toNat_ofInt, hcast, Int.emod_eq_of_lt (by omega) (by omega)]
  omega

theorem average_toNat {n : Nat} (a b : BitVec n) : (average a b).toNat = (a.toNat + b.toNat) / 2 := by
  have ha := a.isLt
  have hb := b.isLt
  rw [average, BitVec.toNat_ofNat, Nat.mod_eq_of_lt (by omega)]

/-- Settles O55: the lanes of each result are the sums or averages of the operands' lanes. -/
theorem laneArithmetic : Obligations.LaneArithmetic := by
  unfold Obligations.LaneArithmetic
  intro s dst src d hdsp a low b lane8 lane16
  refine ⟨dspFn_of_exec (if_pos hdsp) fun i hi => ?_, dspFn_of_exec (if_pos hdsp) fun i hi => ?_,
    dspFn_of_exec (if_pos hdsp) fun i hi => ?_, dspFn_of_exec (if_pos hdsp) fun i hi => ?_,
    dspFn_of_exec (if_pos hdsp) (satAddSigned_toInt (by decide) a b),
    dspFn_of_exec (if_pos hdsp) fun i hi => ?_, dspFn_of_exec (if_pos hdsp) fun i hi => ?_⟩
  · exact (congrArg BitVec.toInt (byteLane_mapBytes satAddSigned a b hi)).trans (satAddSigned_toInt (by decide) _ _)
  · exact (congrArg BitVec.toInt (shortLane_mapShorts satAddSigned a b hi)).trans (satAddSigned_toInt (by decide) _ _)
  · exact (congrArg BitVec.toNat (byteLane_mapBytes satAddUnsigned a b hi)).trans (satAddUnsigned_toNat _ _)
  · exact (congrArg BitVec.toNat (shortLane_mapShorts satAddUnsigned a b hi)).trans (satAddUnsigned_toNat _ _)
  · exact (congrArg BitVec.toNat (byteLane_mapBytes average low b hi)).trans (average_toNat _ _)
  · exact (congrArg BitVec.toNat (shortLane_mapShorts average low b hi)).trans (average_toNat _ _)

/-! ### Unpacks -/

theorem unpackShorts_toNat (n : Nat) (a b : Word) : (unpackShorts n a b).toNat
    = a.toNat / 2 ^ (16 * n) % 2 ^ 16 * 2 ^ 16 + b.toNat / 2 ^ (16 * n) % 2 ^ 16 := by
  rw [unpackShorts, toNat_append, shortLane, shortLane, toNat_extract, toNat_extract]

/-- The bytes `n` of the two registers of a group, the first one's above (R462 to R469). -/
theorem unpackBytes_toNat (n : Nat) (a b : Word) : (unpackBytes n a b).toNat % 2 ^ 16
    = a.toNat / 256 ^ n % 256 * 256 + b.toNat / 256 ^ n % 256 := by
  have hpow : 2 ^ (8 * n) = 256 ^ n := by
    rw [pow_mul]
    norm_num
  rw [unpackBytes, zext_toNat _ (by decide), toNat_append, byteLane, byteLane, toNat_extract, toNat_extract, hpow]
  omega

/-- The low half written, the high half kept. -/
theorem lowHalf_toNat (old r : Word) : (shortLane old 1 ++ shortLane r 0 : BitVec 32).toNat
    = old.toNat / 2 ^ 16 * 2 ^ 16 + r.toNat % 2 ^ 16 := by
  rw [toNat_append, shortLane, shortLane, toNat_extract, toNat_extract]
  omega

/-- The high half written, the low half kept. -/
theorem highHalf_toNat (old r : Word) : (shortLane r 0 ++ shortLane old 0 : BitVec 32).toNat
    = r.toNat % 2 ^ 16 * 2 ^ 16 + old.toNat % 2 ^ 16 := by
  rw [toNat_append, shortLane, shortLane, toNat_extract, toNat_extract]
  omega

section
variable {i : Instr} {s : State} {op : DspOp} {n : Nat} {g : BitVec 3} {dst : Reg}

theorem unpackLow_of_exec (h : exec i s = unpackLow op n g dst s) : ∃ t v r, exec i s = .next t ∧ WritesReg s t dst v
    ∧ DspValue s op (groupA s g) (groupB s g) r
      (r.toNat % 2 ^ 16 = (groupA s g).toNat / 256 ^ n % 256 * 256 + (groupB s g).toNat / 256 ^ n % 256)
    ∧ v.toNat = (readReg s dst).toNat / 2 ^ 16 * 2 ^ 16 + r.toNat % 2 ^ 16 := by
  obtain ⟨t, hexec, hwrites⟩ := dspInto_of_exec h
  exact ⟨t, _, dspFn op (unpackBytes n) (groupA s g) (groupB s g) s, hexec, hwrites,
    dspValue_dspFn fun he => he.symm ▸ unpackBytes_toNat n _ _, lowHalf_toNat _ _⟩

theorem unpackHigh_of_exec (h : exec i s = unpackHigh op n g dst s) : ∃ t v r, exec i s = .next t ∧ WritesReg s t dst v
    ∧ DspValue s op (groupA s g) (groupB s g) r
      (r.toNat % 2 ^ 16 = (groupA s g).toNat / 256 ^ n % 256 * 256 + (groupB s g).toNat / 256 ^ n % 256)
    ∧ v.toNat = r.toNat % 2 ^ 16 * 2 ^ 16 + (readReg s dst).toNat % 2 ^ 16 := by
  obtain ⟨t, hexec, hwrites⟩ := dspInto_of_exec h
  exact ⟨t, _, dspFn op (unpackBytes n) (groupA s g) (groupB s g) s, hexec, hwrites,
    dspValue_dspFn fun he => he.symm ▸ unpackBytes_toNat n _ _, highHalf_toNat _ _⟩

end

/-- Settles O56: two unpacks of shorts, and each byte unpack into one half. -/
theorem unpackInstructions : Obligations.UnpackInstructions := by
  unfold Obligations.UnpackInstructions
  intro s g dst hdsp a b old
  simp only [List.forall_mem_cons, List.not_mem_nil, IsEmpty.forall_iff, implies_true, and_true]
  refine ⟨⟨dspFn_of_exec (if_pos hdsp) ?_, dspFn_of_exec (if_pos hdsp) ?_⟩, ?_⟩
  · refine (unpackShorts_toNat 0 a b).trans ?_
    norm_num
  · refine (unpackShorts_toNat 1 a b).trans ?_
    have ha := a.isLt
    have hb := b.isLt
    omega
  · exact ⟨⟨unpackLow_of_exec (if_pos hdsp), unpackHigh_of_exec (if_pos hdsp)⟩,
      ⟨unpackLow_of_exec (if_pos hdsp), unpackHigh_of_exec (if_pos hdsp)⟩,
      ⟨unpackLow_of_exec (if_pos hdsp), unpackHigh_of_exec (if_pos hdsp)⟩,
      unpackLow_of_exec (if_pos hdsp), unpackHigh_of_exec (if_pos hdsp)⟩

/-! ### Rotates, minimum, maximum, absolute value -/

theorem rotateRight_getLsbD (v : Word) {n : Word} {i : Nat} (hn : n.toNat < 32) (hi : i < 32) :
    (rotateRight v n).getLsbD i = v.getLsbD ((i + n.toNat) % 32) := by
  rw [rotateRight, BitVec.getLsbD_or, BitVec.getLsbD_ushiftRight, BitVec.getLsbD_shiftLeft]
  by_cases h : i + n.toNat < 32
  · have below : decide (i < 32 - n.toNat) = true := by
      rw [decide_eq_true_eq]
      omega
    rw [Nat.mod_eq_of_lt h, below, Nat.add_comm n.toNat]
    simp
  · have above : decide (i < 32 - n.toNat) = false := by
      rw [decide_eq_false_iff_not]
      omega
    have hmod : (i + n.toNat) % 32 = i - (32 - n.toNat) := by omega
    rw [hmod, above, BitVec.getLsbD_of_ge v (n.toNat + i) (by omega)]
    simp [hi]

theorem rotateLeft_getLsbD (v : Word) {n : Word} {i : Nat} (hn : n.toNat < 32) (hi : i < 32) :
    (rotateLeft v n).getLsbD ((i + n.toNat) % 32) = v.getLsbD i := by
  rw [rotateLeft, BitVec.getLsbD_or, BitVec.getLsbD_ushiftRight, BitVec.getLsbD_shiftLeft]
  by_cases h : i + n.toNat < 32
  · rw [Nat.mod_eq_of_lt h, BitVec.getLsbD_of_ge v (32 - n.toNat + (i + n.toNat)) (by omega)]
    simp [h]
  · have hmod : (i + n.toNat) % 32 = i + n.toNat - 32 := by omega
    have hback : 32 - n.toNat + (i + n.toNat - 32) = i := by omega
    have below : decide (i + n.toNat - 32 < n.toNat) = true := by
      rw [decide_eq_true_eq]
      omega
    rw [hmod, hback, below]
    simp

theorem rotateAmount_lt (imm : BitVec 3) : (zext imm).toNat < 32 := by
  have := imm.isLt
  rw [zext_toNat _ (by decide)]
  omega

theorem min_toInt (a b : Word) : (if b.toInt < a.toInt then b else a).toInt = Min.min a.toInt b.toInt := by
  split <;> omega

theorem max_toInt (a b : Word) : (if a.toInt < b.toInt then b else a).toInt = Max.max a.toInt b.toInt := by
  split <;> omega

/-- ABS of any number but the most negative one (R479). -/
theorem abs_toInt {a : Word} (h : a.toInt ≠ -2 ^ 31) : (if a.msb then 0 - a else a).toInt = (a.toInt.natAbs : Int) := by
  have hne : a ≠ BitVec.intMin 32 := by
    rintro rfl
    exact h (BitVec.toInt_intMin_of_pos (by decide))
  have habs : (if a.msb then 0 - a else a) = a.abs := rfl
  rw [habs, BitVec.toInt_abs_eq_natAbs, if_neg hne]

theorem exec_unprefixed {i : Instr} {s : State} {run : State → Outcome} (hdsp : s.cfg.dspExt = true)
    (he : s.sr.e = false) (h : exec i s = withDsp i (unprefixed run) s) : exec i s = run s := by
  have hprefix : ¬s.sr.e = true := by simp [he]
  exact h.trans ((if_pos hdsp).trans (if_neg hprefix))

/-- Settles O57: the bits a rotate moves, and MIN, MAX and ABS as numbers. -/
theorem rotateMinMaxAbs : Obligations.RotateMinMaxAbs := by
  unfold Obligations.RotateMinMaxAbs
  intro s imm d dst src hdsp a low b
  refine ⟨fun he => ⟨dspFn_of_exec (exec_unprefixed hdsp he rfl) fun i hi => ?_,
    dspFn_of_exec (exec_unprefixed hdsp he rfl) fun i hi => ?_⟩, dspFn_of_exec (if_pos hdsp) (min_toInt low b),
    dspFn_of_exec (if_pos hdsp) (max_toInt low b), ?_⟩
  · exact zext_toNat imm (by decide) ▸ rotateRight_getLsbD a (rotateAmount_lt imm) hi
  · exact zext_toNat imm (by decide) ▸ rotateLeft_getLsbD a (rotateAmount_lt imm) hi
  · by_cases h : a = 0x80000000 ∧ .abs ∉ s.cfg.dspSupplied
    · obtain ⟨hmost, hdefault⟩ := id h
      have hexec : exec (.abs dst) s = dspInto dst (draw s).1 (draw s).2 := (if_pos hdsp).trans (if_pos h)
      refine ⟨_, (draw s).1, hexec, writesReg_freeFlags dst _ (draw s).2, fun hmem => absurd hmem hdefault,
        fun _ hne => absurd ?_ hne⟩
      rw [hmost]
      rfl
    · have hexec : exec (.abs dst) s = dspInto dst (dspFn .abs (fun v _ => if v.msb then 0 - v else v) a 0 s) s :=
        (if_pos hdsp).trans (if_neg h)
      exact dspFn_of_exec hexec abs_toInt

/-! ### Accumulators -/

theorem accumulators_append (r : BitVec 96) :
    r.extractLsb' 64 32 ++ r.extractLsb' 32 32 ++ r.extractLsb' 0 32 = r := by
  apply BitVec.eq_of_toNat_eq
  have := r.isLt
  rw [toNat_append, toNat_append, toNat_extract, toNat_extract, toNat_extract]
  omega

theorem accumulators_extract (high : BitVec 16) (r : BitVec 48) :
    (high ++ r.extractLsb' 32 16 : BitVec 32).extractLsb' 0 16 ++ r.extractLsb' 0 32 = r := by
  apply BitVec.eq_of_toNat_eq
  have := r.isLt
  rw [toNat_append, toNat_extract, toNat_append, toNat_extract, toNat_extract]
  omega

/-- A unit that writes the accumulators and leaves the flags free. -/
theorem writesSpecial_freeFlags (s : State) (spr : Spr) (draws : Nat) :
    WritesSpecial s (retire (drawFlags { s with spr := spr, draws := draws })) spr :=
  writesSpecial_retire (u := drawFlags { s with spr := spr, draws := draws }) rfl
    ⟨rfl, rfl, rfl, ⟨rfl, rfl, rfl, rfl, rfl, rfl, rfl⟩, rfl, ⟨rfl, rfl, rfl⟩, ⟨rfl, rfl, rfl, rfl, rfl⟩, rfl⟩ rfl

/-- Settles O58: the accumulators and the register written, with the open functions of `Config` as they are. -/
theorem openDspAndMreMoves : Obligations.OpenDspAndMreMoves := by
  unfold Obligations.OpenDspAndMreMoves
  intro s imm r q hdsp a b p
  refine ⟨?_, ?_, ?_, fun he => ?_, ?_, ?_⟩
  · simp only [List.forall_mem_cons, List.not_mem_nil, IsEmpty.forall_iff, implies_true, and_true]
    exact ⟨⟨_, if_pos hdsp, accumulators_append _, writesSpecial_freeFlags s _ s.draws⟩,
      _, if_pos hdsp, accumulators_append _, writesSpecial_freeFlags s _ s.draws⟩
  · exact ⟨_, if_pos hdsp, accumulators_extract _ _, writesSpecial_freeFlags s _ (s.draws + 2)⟩
  · exact ⟨_, if_pos hdsp, rfl, writesSpecial_freeFlags s _ (s.draws + 2)⟩
  · exact dspInto_of_exec (exec_unprefixed hdsp he rfl)
  · exact ⟨_, if_pos hdsp, writesSpecial_retire (u := { s with spr := { p with mre := a } }) rfl
      (sameAround_spr s _) rfl, rfl, rfl, rfl, rfl⟩
  · exact ⟨_, if_pos hdsp, writesReg_retire r _ rfl rfl (SameAround.refl s) rfl, rfl, rfl, rfl, rfl⟩

end Sys2Proof.Machine

/-! SUPPORT. The unit boundary: what is sampled, the halfword that is fetched, and the Reset event. -/

namespace Sys2Proof.Machine

open Sys2Proof.Safety

/-! ### What is sampled -/

/-- Between units the inputs are sampled. -/
theorem boundary_between {s : State} (h : s.sr.e = false) : boundary s = sample (requestNow s) (consumeBoundary s) := by
  have he : ¬s.sr.e = true := by simp [h]
  exact if_neg he

/-- Inside a unit nothing is (60_exceptions.md R533). -/
theorem boundary_inside {s : State} (he : s.sr.e = true) (hmode : s.sr.modeLo = false) : boundary s = .run s := by
  have hmode' : ¬s.sr.modeLo = true := by simp [hmode]
  exact (if_pos he).trans (if_neg hmode')

section
variable {b : Boundary} {s : State}

/-- In lockup only Reset is seen (R561). -/
theorem sample_lockup (hreset : b.resetReq = false) (h : s.lockup = true) : sample b s = .done (.next s) := by
  simp [sample, hreset, h]

theorem sample_reserved (hreset : b.resetReq = false) (hlock : s.lockup = false) (h : s.sr.modeLo = true) :
    sample b s = .done (.fault .reservedMode) := by
  simp [sample, hreset, hlock, h]

variable (hreset : b.resetReq = false) (hlock : s.lockup = false) (hmode : s.sr.modeLo = false)
include hreset hlock hmode

theorem sample_nmi (hpending : b.nmiPending = true) (hn : s.sr.nmi = true) (hl : s.sr.l = false) :
    sample b s = .done (takeNmi s) := by
  simp [sample, hreset, hlock, hmode, hpending, hn, hl]

theorem sample_noNmi (h : b.nmiPending = false ∨ s.sr.nmi = false ∨ s.sr.l = true) : sample b s
    = if b.intPending && s.sr.int && !s.sr.l then .done (takeInt b.intcNumber s)
      else if s.halted then .done (.next s) else .run s := by
  have hguard : (b.nmiPending && s.sr.nmi && !s.sr.l) = false := by
    rcases h with h | h | h <;> simp [h]
  simp [sample, hreset, hlock, hmode, hguard]

theorem sample_int (h : b.nmiPending = false ∨ s.sr.nmi = false) (hpending : b.intPending = true)
    (hi : s.sr.int = true) (hl : s.sr.l = false) : sample b s = .done (takeInt b.intcNumber s) := by
  rw [sample_noNmi hreset hlock hmode (h.imp_right .inl)]
  simp [hpending, hi, hl]

theorem sample_quiet (hn : b.nmiPending = false ∨ s.sr.nmi = false ∨ s.sr.l = true)
    (hi : b.intPending = false ∨ s.sr.int = false ∨ s.sr.l = true) :
    sample b s = if s.halted then .done (.next s) else .run s := by
  have hguard : (b.intPending && s.sr.int && !s.sr.l) = false := by
    rcases hi with h | h | h <;> simp [h]
  rw [sample_noNmi hreset hlock hmode hn, hguard]
  rfl

end

/-- What a step does once the boundary has settled it. -/
theorem step_done {s : State} {o : Outcome} (h : boundary s = .done o) : step s = o := by
  rw [step_eq_afterSample, h]
  rfl

theorem step_run {s u : State} (h : boundary s = .run u) :
    step s = conclude (fetchHalf u) fun w v => exec (decode w) v := by
  rw [step_eq_afterSample, h]
  rfl

/-! ### The interrupt number -/

theorem takeInt_autovector (number : Word) {s : State} (h : s.sr.vi = false) :
    takeInt number s = exceptionEntry 0x08 s.pc .normal (acknowledge s) := by
  have hvi : ¬s.sr.vi = true := by simp [h]
  exact if_neg hvi

theorem takeInt_vectored {number : Word} {s : State} (h : s.sr.vi = true) (hlo : 0x20 ≤ number.toNat)
    (hhi : number.toNat ≤ 0xFF) : takeInt number s
      = exceptionEntry (BitVec.ofNat 32 (4 * number.toNat)) s.pc .normal (acknowledge s) := by
  have hrange : 0x20 ≤ number ∧ number ≤ 0xFF := ⟨hlo, hhi⟩
  have hoff : BitVec.ofNat 32 (4 * number.toNat) = 4 * number := by
    apply BitVec.eq_of_toNat_eq
    rw [BitVec.toNat_ofNat, BitVec.toNat_mul]
    rfl
  rw [takeInt, if_pos h, if_pos hrange, hoff]

theorem takeInt_outOfRange {number : Word} {s : State} (h : s.sr.vi = true)
    (hr : number.toNat < 0x20 ∨ 0xFF < number.toNat) : takeInt number s = .fault .interruptNumber := by
  have hrange : ¬(0x20 ≤ number ∧ number ≤ 0xFF) := by
    rintro ⟨hlo, hhi⟩
    have hlo' : 0x20 ≤ number.toNat := hlo
    have hhi' : number.toNat ≤ 0xFF := hhi
    omega
  rw [takeInt, if_pos h, if_neg hrange]

/-- Settles O59: the order in which a boundary looks at lockup, the mode, NMI, INT and halted. -/
theorem boundaryEvents : Obligations.BoundaryEvents := by
  unfold Obligations.BoundaryEvents
  intro s he hreset u number
  have done {o : Outcome} (h : sample (requestNow s) (consumeBoundary s) = .done o) : step s = o :=
    step_done ((boundary_between he).trans h)
  refine ⟨fun hlock => done (sample_lockup hreset hlock),
    fun hlock hmode => done (sample_reserved hreset hlock hmode),
    fun hlock hmode => ⟨fun hpending hn hl => done (sample_nmi hreset hlock hmode hpending hn hl),
      fun hn hpending hi hl => ?_, fun hn hi hhalted => ?_⟩⟩
  · have htake := done (sample_int (s := consumeBoundary s) hreset hlock hmode hn hpending hi hl)
    exact ⟨fun hvi => htake.trans (takeInt_autovector number hvi),
      fun hvi hlo hhi => htake.trans (takeInt_vectored hvi hlo hhi),
      fun hvi hr => htake.trans (takeInt_outOfRange hvi hr)⟩
  · exact done ((sample_quiet (s := consumeBoundary s) hreset hlock hmode hn hi).trans (if_pos hhalted))

/-! ### The halfword that is fetched -/

theorem littleEndianValue_pair (x y : Byte) : (littleEndianValue [x, y]).setWidth 16 = y ++ x := by
  apply BitVec.eq_of_getLsbD_eq
  intro i hi
  simp only [littleEndianValue, BitVec.getLsbD_append, BitVec.getLsbD_setWidth, BitVec.getLsbD_or,
    BitVec.getLsbD_shiftLeft]
  interval_cases i <;> simp

theorem halfAt_bus (s : State) (a : Nat) : halfAt s { space := .bus, addr := a }
    = halfOfBytes s.sr.endian (readByte s.mem a) (readByte s.mem (a + 1)) := by
  have hread : halfAt s { space := .bus, addr := a }
      = (bytesValue s.sr.endian [readByte s.mem a, readByte s.mem (a + 1)]).setWidth 16 := rfl
  rw [hread, bytesValue, halfOfBytes]
  cases s.sr.endian with
  | true => exact littleEndianValue_pair _ _
  | false => exact littleEndianValue_pair _ _

/-- Where nothing is stale a fetch gets what memory holds. -/
theorem fetchFrom_settledAll {s : State} {l : Loc} (cc : BitVec 2) (h : ∀ e ∈ s.stale, e.loc ≠ l) :
    fetchFrom l cc s = (halfAt s l, s) := by
  have hnone : s.stale.filter (fun e => e.loc = l && !e.settled cc) = [] :=
    List.filter_eq_nil_iff.mpr fun e he => by simp [h e he]
  rw [fetchFrom, fetchChoices, hnone]
  rfl

/-- Settles O4: what the boundary lets run is the halfword fetched, and what it decodes to. -/
theorem stepRunsDecoded : Obligations.StepRunsDecoded := by
  unfold Obligations.StepRunsDecoded
  refine ⟨fun s u v w i hrun hfetch hdecode _ => ?_, fun s u v off hrun hfetch => ?_,
    fun s hmode he => boundary_inside he hmode,
    fun s hmode he hlock hhalted hreset hn hi => ?_, fun s hplain hstale => ?_⟩
  · rw [step_run hrun, hfetch, ← hdecode]
    rfl
  · rw [step_run hrun, hfetch]
    rfl
  · have hrunning : ¬(consumeBoundary s).halted = true := by
      show ¬s.halted = true
      simp [hhalted]
    have hsample := sample_quiet (s := consumeBoundary s) hreset hlock hmode hn hi
    exact (boundary_between he).trans (hsample.trans (if_neg hrunning))
  · obtain ⟨cc, hl⟩ := locate_plainRam (k := .fetch) (z := .half) hplain (.inl rfl)
    rw [fetchHalf, hl]
    show Acc.ok (fetchFrom _ cc s).1 (fetchFrom _ cc s).2 = _
    rw [fetchFrom_settledAll cc hstale]
    exact congrArg (fun w => Acc.ok w s) (halfAt_bus s _)

/-! ### Reset -/

/-- No scratch-pad region is met while neither side is enabled (10_state.md R70). -/
theorem spmHits_disabled {s : State} (va : Word) (hi : s.scp.spm.iEnable ≠ 1) (hd : s.scp.spm.dEnable ≠ 1) :
    spmHits s va = [] := by
  have none (space : Space) (present config sizeCode : BitVec 4) (banks : Vector SpmBank 4) {enable : BitVec 4}
      (h : enable ≠ 1) : spmHitsIn space present enable config sizeCode banks va = [] :=
    List.filterMap_eq_nil_iff.mpr fun n _ => if_neg fun hall => h hall.1
  rw [spmHits, none _ _ _ _ _ hi, none _ _ _ _ _ hd]
  rfl

theorem subBanks_reset {s : State} {b : SubBank} (h : b ∈ (resetState s).scp.subBanks.toList) :
    b = { valid := false, ar := false, cc := 0, base := 0, size := 0 } := by
  rw [resetState_scp, resetScp, Vector.toList_replicate] at h
  exact List.eq_of_mem_replicate h

/-- The read of the Reset vector goes to the bus where no scratch-pad is enabled (70_reset_and_hazards.md R580). -/
theorem locate_resetVector {s : State} (hi : s.cfg.spmReset.iEnable ≠ 1) (hd : s.cfg.spmReset.dEnable ≠ 1) :
    locate .read false .word 0 (resetState s) = locateBus .read 0 0 (resetState s) := by
  have hnibble : bankNibble (resetState s) 0 = 0 := rfl
  have hnone : ∀ b ∈ (resetState s).scp.subBanks.toList, subBankMatches 0 b = false := by
    intro b hb
    rw [subBanks_reset hb]
    rfl
  rw [locate_untranslated (.inr rfl) (spmHits_disabled 0 hi hd) (.inl (by rw [hnibble]; rfl)),
    locateMbmu_eq .read false (.inl ⟨hnone, rfl, rfl⟩), hnibble]
  rfl

/-- A platform without memory at address 0 cannot leave Reset (R580). -/
theorem resetEvent_noMemory {s : State} (hi : s.cfg.spmReset.iEnable ≠ 1) (hd : s.cfg.spmReset.dEnable ≠ 1)
    (h : regionAt s.cfg.platform 0 ≠ some .ram) : resetEvent s = .fault .noResetMemory := by
  obtain ⟨-, hdevice, hopen, hnone⟩ := locateBus_cases .read 0 0 (resetState s)
  have hregion : (resetState s).cfg.platform = s.cfg.platform := rfl
  rw [hregion] at hdevice hopen hnone
  rw [resetEvent]
  simp only [locate_resetVector hi hd]
  cases hr : regionAt s.cfg.platform 0 with
  | none => rw [hnone hr]
  | some k =>
    cases k with
    | ram => exact absurd hr h
    | device => rw [hdevice hr]
    | openBus => rw [hopen hr]

theorem resetEvent_storage {s u : State} {l : Loc} {cc : BitVec 2}
    (h : locate .read false .word 0 (resetState s) = .ok (.storage l cc) u) :
    resetEvent s = .next { resetState s with pc := wordAt (resetState s) l &&& 0xFFFFFFFE } := by
  rw [resetEvent]
  simp only [h]
  rfl

/-- SCPR6 reads 0 after Reset (10_state.md R90, log 5). -/
theorem scprRead_six_reset (s : State) : (scprRead 6 (resetState s)).1 = 0 := by
  have hslot : selectedSlot (resetState s) = 0 := by
    apply BitVec.eq_of_toNat_eq
    rw [selectedSlot_toNat]
    simp [resetScp]
  have hentry : readTlb (resetState s) 0 = resetTlbEntry s.draws 0 := by
    simp [readTlb, resetScp]
  have hhalf : ¬(resetState s).scp.tlbIndex.getLsbD 0 = true := by
    have hindex : (resetState s).scp.tlbIndex = 0 := rfl
    rw [hindex]
    decide
  rw [scprRead_six, hslot, hentry, if_neg hhalf]
  rfl

/-- Settles O60: Reset's vector and the reset values in force. -/
theorem resetEventEffect : Obligations.ResetEventEffect := by
  unfold Obligations.ResetEventEffect
  intro s he hreset r vector
  have hstep : step s = resetEvent (consumeBoundary s) :=
    step_done ((boundary_between he).trans (if_pos hreset))
  refine ⟨fun hi hd => ⟨fun hram => ?_, fun hram => ⟨?_, rfl⟩⟩, fun l cc u hvector => ?_⟩
  · exact hstep.trans (resetEvent_noMemory (s := consumeBoundary s) hi hd hram)
  · exact (locate_resetVector (s := consumeBoundary s) hi hd).trans
      ((locateBus_cases .read 0 0 (resetState (consumeBoundary s))).1 hram)
  · refine ⟨_, hstep.trans (resetEvent_storage hvector), ⟨rfl, rfl, rfl⟩, rfl, rfl, rfl, rfl, rfl, rfl, rfl,
      rfl, rfl, rfl, rfl, rfl, rfl, fun k => ?_, rfl, rfl, rfl, rfl, rfl, rfl, rfl, rfl, rfl, rfl, rfl, rfl, rfl, rfl,
      scprRead_six_reset (consumeBoundary s), fun _ => rfl, ⟨rfl, rfl, rfl⟩, rfl, rfl⟩
    exact Vector.getElem_replicate k.isLt

end Sys2Proof.Machine
